-- ==== Sys2Proof/Word.lean ====
section
/-! DEFINITION. The widths of RDS-CWS (00_scope.md R6) and the five roles (00_scope.md R10). -/

namespace Sys2Proof

/-- `DATA_W`: the 16-bit data word of a row (R6). -/
abbrev Data := BitVec 16

/-- `CW_W`: a checkword, an offset word or a syndrome, 10 bits (R6). -/
abbrev Checkword := BitVec 10

/-- `ROW_W`: a row, 26 bits, the data word above the checkword (R6, R31). -/
abbrev Row := BitVec 26

/-- The row ports, or the rows of a group: `N_ROWS` = 4 (R6, R41). -/
abbrev Rows := Vector Row 4

/-- `CMD_W`: the command word, `OP` in bits 1:0 and `ROLE` in bits 4:2 (R43). -/
abbrev CmdWord := BitVec 5

/-- `ROLE_W`: a role code (R44). -/
abbrev RoleCode := BitVec 3

/-- `STATUS_W`: a status code (R46). -/
abbrev StatusCode := BitVec 3

/-- The index of a row of a group, as `ERR_ROW` holds it (R18). -/
abbrev RowIndex := BitVec 2

/-- The request of R42 as one number: 5 command bits and four 26-bit rows. -/
abbrev RequestWord := BitVec 109

/-- The five roles, in the source's enumeration order (R44). -/
inductive Role where
  | A | B | C | D | E
  deriving DecidableEq, Repr

end Sys2Proof
end

