-- ==== Sys2Proof/Machine/Codes.lean ====
section
/-! DEFINITION. The numeric codes of the ports: role codes (30_encoding.md R44) and status codes
(30_encoding.md R46). -/

namespace Sys2Proof.Machine

/-- The role code of a role (R44). -/
def roleCode (r : Role) : RoleCode :=
  match r with
  | .A => 0b000#3
  | .B => 0b001#3
  | .C => 0b010#3
  | .D => 0b011#3
  | .E => 0b100#3

/-- `NONE`, "no role", output only (R44). -/
def roleNone : RoleCode := 0b111#3

/-- The role a code names; 0b101, 0b110 and 0b111 name none (R44). -/
def roleOfCode? (c : RoleCode) : Option Role :=
  if c = 0b000#3 then some .A
  else if c = 0b001#3 then some .B
  else if c = 0b010#3 then some .C
  else if c = 0b011#3 then some .D
  else if c = 0b100#3 then some .E
  else none

/-- A role or its absence as an output port shows it: the role's code, or `NONE` (R44). -/
def roleOutCode (r : Option Role) : RoleCode :=
  match r with
  | some r => roleCode r
  | none => roleNone

/-- `OK`: the operation completed without error (R46). -/
def statusOk : StatusCode := 0b000#3

/-- `NO_MATCH` (R46). -/
def statusNoMatch : StatusCode := 0b001#3

/-- `DUPLICATE_ROLE` (R46). -/
def statusDuplicateRole : StatusCode := 0b010#3

/-- `ILLEGAL_ROLE` (R46). -/
def statusIllegalRole : StatusCode := 0b011#3

/-- `NONE`: no request has completed since reset (R46). -/
def statusNone : StatusCode := 0b111#3

end Sys2Proof.Machine
end

