-- ==== Sys2Proof/Syntax.lean ====
section
/-! DEFINITION. The instructions: one constructor per row of spec/opcode_table.json. The row operands
of a request come from ports and are no part of the command word (30_encoding.md R47). -/

namespace Sys2Proof

/-- A decoded command word. `cls` and `sync` carry the `ROLE` field they ignore (R48), so that the
32 command words and the 32 terms of this type correspond one to one (log 9). -/
inductive Instr where
  | genA
  | genB
  | genC
  | genD
  | genE
  | chkA
  | chkB
  | chkC
  | chkD
  | chkE
  | cls (role : RoleCode)
  | sync (role : RoleCode)
  | illegalGen101
  | illegalGen110
  | illegalGen111
  | illegalChk101
  | illegalChk110
  | illegalChk111
  deriving DecidableEq, Repr

end Sys2Proof
end

