-- ==== Sys2Proof/WellFormed.lean ====
section
/-! DEFINITION. Well-formedness of instructions and of the codes on the ports. -/

namespace Sys2Proof

/-- Every term of `Instr` is a command word of 30_encoding.md R49's map: a role the table does not
list has no constructor, and the ignored `ROLE` field takes all eight values (R48). So the check
refuses nothing, and it is written constructor by constructor. -/
def Instr.wf (i : Instr) : Bool :=
  match i with
  | .genA => true
  | .genB => true
  | .genC => true
  | .genD => true
  | .genE => true
  | .chkA => true
  | .chkB => true
  | .chkC => true
  | .chkD => true
  | .chkE => true
  | .cls _ => true
  | .sync _ => true
  | .illegalGen101 => true
  | .illegalGen110 => true
  | .illegalGen111 => true
  | .illegalChk101 => true
  | .illegalChk110 => true
  | .illegalChk111 => true

/-- A role code that GEN and CHK accept: "if role <= 0b100" (R45). -/
def roleCodeLegal (c : RoleCode) : Bool := decide (c.toNat ≤ 4)

/-- A role code the block may show on `ROLE_OUT`, `ERR_ROLE` or `ROW_ROLE`: 0b101 and 0b110 are
"never output" (R44). -/
def roleCodeShown (c : RoleCode) : Bool := roleCodeLegal c || decide (c = Machine.roleNone)

/-- A status code the block may show: 0b100, 0b101 and 0b110 are "never produced" (R46). -/
def statusCodeShown (c : StatusCode) : Bool :=
  decide (c.toNat ≤ 3) || decide (c = Machine.statusNone)

end Sys2Proof
end

