-- ==== Sys2Proof/Decode.lean ====
section
/-! DEFINITION. Decoding and encoding of command words (30_encoding.md R43, R44, R45, R49) and of the
whole 109-bit request (R42). -/

namespace Sys2Proof

/-- `CMD[1:0]`, the operation (R43). -/
def opField (c : CmdWord) : BitVec 2 := c.extractLsb' 0 2

/-- `CMD[4:2]`, the role code (R43). -/
def roleField (c : CmdWord) : RoleCode := c.extractLsb' 2 3

/-- The word with `OP = 0b00`: GEN under a legal role, else an illegal word (R45, R49). -/
def decodeGen (role : RoleCode) : Instr :=
  match Machine.roleOfCode? role with
  | some .A => .genA
  | some .B => .genB
  | some .C => .genC
  | some .D => .genD
  | some .E => .genE
  | none =>
    if role = 0b101#3 then .illegalGen101
    else if role = 0b110#3 then .illegalGen110
    else .illegalGen111

/-- The word with `OP = 0b01`: CHK under a legal role, else an illegal word (R45, R49). -/
def decodeChk (role : RoleCode) : Instr :=
  match Machine.roleOfCode? role with
  | some .A => .chkA
  | some .B => .chkB
  | some .C => .chkC
  | some .D => .chkD
  | some .E => .chkE
  | none =>
    if role = 0b101#3 then .illegalChk101
    else if role = 0b110#3 then .illegalChk110
    else .illegalChk111

/-- Dispatch by operation (R45). It is total and refuses no word: "no undefined encoding: every one
of the 32 command words ... has a rule" (R50). -/
def decode (c : CmdWord) : Instr :=
  if opField c = 0b00#2 then decodeGen (roleField c)
  else if opField c = 0b01#2 then decodeChk (roleField c)
  else if opField c = 0b10#2 then .cls (roleField c)
  else .sync (roleField c)

/-- The command word of an instruction, from the `encoding` column of spec/opcode_table.json. -/
def encode (i : Instr) : CmdWord :=
  match i with
  | .genA => 0b00000#5
  | .genB => 0b00100#5
  | .genC => 0b01000#5
  | .genD => 0b01100#5
  | .genE => 0b10000#5
  | .chkA => 0b00001#5
  | .chkB => 0b00101#5
  | .chkC => 0b01001#5
  | .chkD => 0b01101#5
  | .chkE => 0b10001#5
  | .cls role => role ++ 0b10#2
  | .sync role => role ++ 0b11#2
  | .illegalGen101 => 0b10100#5
  | .illegalGen110 => 0b11000#5
  | .illegalGen111 => 0b11100#5
  | .illegalChk101 => 0b10101#5
  | .illegalChk110 => 0b11001#5
  | .illegalChk111 => 0b11101#5

/-- Why a number is no request. -/
inductive DecodeError where
  /-- The number has more than the 109 bits of a request (R42). -/
  | widerThanRequest
  deriving DecidableEq, Repr

/-- A request with its command word still undecoded: `CMD` and `ROW_IN0..3` (R42). -/
structure RawRequest where
  cmd : CmdWord
  rowIn : Rows
  deriving DecidableEq, Repr

/-- The fields of a request word. R42 lists the fields and their widths and fixes no position:
`CMD` is taken to stand in bits 4:0, as the opcode table numbers it, and `ROW_IN0` to `ROW_IN3`
above it in that order. DESIGN CHOICE (log 5). -/
def splitRequest (w : RequestWord) : RawRequest :=
  { cmd := w.extractLsb' 0 5
    rowIn := #v[w.extractLsb' 5 26, w.extractLsb' 31 26, w.extractLsb' 57 26, w.extractLsb' 83 26] }

/-- The request word of its fields, laid out as `splitRequest` reads it (log 5). -/
def joinRequest (cmd : CmdWord) (rowIn : Rows) : RequestWord :=
  rowIn[3] ++ (rowIn[2] ++ (rowIn[1] ++ (rowIn[0] ++ cmd)))

/-- The request word of an instruction and its row operands. -/
def encodeRequest (i : Instr) (rowIn : Rows) : RequestWord := joinRequest (encode i) rowIn

/-- The instruction and the row operands of a request word. -/
def decodeRequest (w : RequestWord) : Instr × Rows :=
  (decode (splitRequest w).cmd, (splitRequest w).rowIn)

/-- A request word from a number, refused by name where the number is wider than a request. -/
def requestOfNat (n : Nat) : Except DecodeError RequestWord :=
  if n < 2 ^ 109 then .ok (BitVec.ofNat 109 n) else .error .widerThanRequest

/-- The instruction that the decoder reads from a request whose low `nbits` bits are `w` and whose
other bits are 0, bit 0 being the least significant bit of `CMD`. -/
def decodeTableWord (nbits w : Nat) : Option Instr :=
  match requestOfNat (w % 2 ^ nbits) with
  | .ok r => some (decodeRequest r).1
  | .error _ => none

end Sys2Proof
end

