-- ==== Sys2Proof/Config.lean ====
section
/-! DEFINITION. The free values: what the spec leaves to the host or does not specify. None of these
constants has a body, so nothing proved in the model rests on a value of one. The block has no
configuration of its own: "no parameter is left OPEN" (00_scope.md R6). -/

namespace Sys2Proof.Config

/-- `RST` at edge number `n`, where the host's inputs for that edge are not placed (log 2). -/
opaque freeRst : Nat → Bool

/-- `REQ_VALID` at edge number `n`, not placed (log 2). -/
opaque freeReqValid : Nat → Bool

/-- `CMD` at edge number `n`, not placed (log 2). -/
opaque freeCmd : Nat → CmdWord

/-- `ROW_IN<i>` at edge number `n`, not placed (log 2): `freeRowIn n i`. -/
opaque freeRowIn : Nat → Nat → Row

/-- `RSP_VALID` before the first reset edge after power-up (R25, log 4). -/
opaque powerUpRspValid : Bool

/-- `Res.STATUS` before the first reset edge (R25, log 4). -/
opaque powerUpStatus : StatusCode

/-- `Res.MATCH` before the first reset edge (R25, log 4). -/
opaque powerUpMatch : Bool

/-- `Res.ROLE_OUT` before the first reset edge (R25, log 4). -/
opaque powerUpRoleOut : RoleCode

/-- `Res.CW_OUT` before the first reset edge (R25, log 4). -/
opaque powerUpCwOut : Checkword

/-- `Res.ERR_ROW` before the first reset edge (R25, log 4). -/
opaque powerUpErrRow : RowIndex

/-- `Res.ERR_ROLE` before the first reset edge (R25, log 4). -/
opaque powerUpErrRole : RoleCode

/-- `Res.ROW_ROLE[i]` before the first reset edge (R25, log 4). -/
opaque powerUpRowRole : Nat → RoleCode

/-- `Res.GROUP_OUT[k]` before the first reset edge (R25, log 4). -/
opaque powerUpGroupOut : Nat → Row

end Sys2Proof.Config
end

