-- ==== Sys2Proof/Machine/State.lean ====
section
/-! DEFINITION. The state of RDS-CWS (10_state.md R11, R18, R19, R24, R25), the values of the input
ports at one edge (30_encoding.md R41), and the reasons a model operation can stop. -/

namespace Sys2Proof.Machine

/-- The result register set `Res` (R18). Codes are kept as the bits of their registers, because a
register that has not been reset holds any value (R25). -/
structure Result where
  /-- `STATUS` -/
  status : StatusCode
  /-- `MATCH` -/
  matched : Bool
  /-- `ROLE_OUT` -/
  roleOut : RoleCode
  /-- `CW_OUT` -/
  cwOut : Checkword
  /-- `ERR_ROW` -/
  errRow : RowIndex
  /-- `ERR_ROLE` -/
  errRole : RoleCode
  /-- `ROW_ROLE[0..3]` -/
  rowRole : Vector RoleCode 4
  /-- `GROUP_OUT[0..3]` -/
  groupOut : Rows
  deriving DecidableEq, Repr

/-- The input ports as sampled at one rising edge of `CLK` (R41, R98). -/
structure Inputs where
  /-- `RST` -/
  rst : Bool
  /-- `REQ_VALID` -/
  reqValid : Bool
  /-- `CMD` -/
  cmd : CmdWord
  /-- `ROW_IN0` to `ROW_IN3` -/
  rowIn : Rows
  deriving DecidableEq, Repr

/-- The state: the pair `(RSP_VALID, Res)` of R11, and beside it what stands for the host, which is
outside the machine: the inputs of the coming edges (log 1) and the counter that the free inputs of
an edge with none placed are drawn by (log 2). `GEN_POLY` and `OffsetROM` are "constants of the
step" (R11). -/
structure State where
  /-- `RSP_VALID` (R19) -/
  rspValid : Bool
  /-- `Res` (R18) -/
  res : Result
  /-- The model's own: the inputs of the coming edges, the next edge first (log 1). -/
  upcoming : List Inputs
  /-- The model's own: how many edges there have been (log 2). -/
  edgeNo : Nat
  deriving DecidableEq, Repr

/-- Why a model operation stops with a fault. No step raises one (R23, R103): the operations that
do are the ROM read by code and the reader of result codes, in Machine/Ops.lean. -/
inductive Fault where
  /-- The offset ROM was read at a role code that addresses no entry (R27). Raised by
  `memReadOffsetRom`. Safe: the model stops where the spec gives no entry. -/
  | noOffsetEntry (code : RoleCode)
  /-- A reader met a status code that is never produced (93 U5). Raised by `statusName`. Safe: the
  model stops. -/
  | reservedStatus (code : StatusCode)
  /-- A reader met a role code that is never output (93 U6). Raised by `shownRole`. Safe: the model
  stops. -/
  | reservedRole (code : RoleCode)
  deriving DecidableEq, Repr

/-- Why a step has no meaning. -/
inductive Refusal where
  /-- The instruction has no meaning in the model yet. No arm of `exec` raises it. Safe: the model
  stops. -/
  | notModelled (mnemonic : String)
  deriving DecidableEq, Repr

/-- `Res0`, the record of all empty values (R18). -/
def Result.empty : Result :=
  { status := statusOk
    matched := false
    roleOut := roleNone
    cwOut := 0x000#10
    errRow := 0#2
    errRole := roleNone
    rowRole := #v[roleNone, roleNone, roleNone, roleNone]
    groupOut := #v[0#26, 0#26, 0#26, 0#26] }

/-- `ResetValues`: "`Res0` with `STATUS` replaced by `NONE`" (R24). -/
def Result.resetValues : Result := { Result.empty with status := statusNone }

/-- The machine right after an edge with `RST == 1` (R24). The model's own fields hold the empty
list and 0: DESIGN CHOICE (log 3). -/
def State.reset : State :=
  { rspValid := false, res := Result.resetValues, upcoming := [], edgeNo := 0 }

/-- The machine at power-up, before the first reset edge: "unspecified values. A model gives them a
free draw" (R25, log 4). -/
def State.powerUp : State :=
  { rspValid := Config.powerUpRspValid
    res :=
      { status := Config.powerUpStatus
        matched := Config.powerUpMatch
        roleOut := Config.powerUpRoleOut
        cwOut := Config.powerUpCwOut
        errRow := Config.powerUpErrRow
        errRole := Config.powerUpErrRole
        rowRole := #v[Config.powerUpRowRole 0, Config.powerUpRowRole 1, Config.powerUpRowRole 2,
          Config.powerUpRowRole 3]
        groupOut := #v[Config.powerUpGroupOut 0, Config.powerUpGroupOut 1,
          Config.powerUpGroupOut 2, Config.powerUpGroupOut 3] }
    upcoming := []
    edgeNo := 0 }

end Sys2Proof.Machine
end

