-- ==== Sys2Proof/Machine/Ops.lean ====
section
/-! DEFINITION. The shared operations: sampling the inputs of an edge, completing a request, raising
an error, the reset and the idle edge, the offset ROM, and the host's reading of result codes. -/

namespace Sys2Proof.Machine

/-- The inputs of edge number `n` where none are placed: free values (log 2). -/
def freeInputs (n : Nat) : Inputs :=
  { rst := Config.freeRst n
    reqValid := Config.freeReqValid n
    cmd := Config.freeCmd n
    rowIn := #v[Config.freeRowIn n 0, Config.freeRowIn n 1, Config.freeRowIn n 2,
      Config.freeRowIn n 3] }

/-- The input ports as the coming edge samples them (R23, R98): the placed inputs, or free ones. -/
def State.inputs (s : State) : Inputs :=
  match s.upcoming with
  | e :: _ => e
  | [] => freeInputs s.edgeNo

/-- The state after an edge that leaves `RSP_VALID` and `Res` with the given values. Every edge of
R23 is one of these, and it is the one place where a state changes. -/
def State.afterEdge (s : State) (valid : Bool) (r : Result) : State :=
  { rspValid := valid, res := r, upcoming := s.upcoming.tail, edgeNo := s.edgeNo + 1 }

/-- A request completes: the whole of `Res` is written and `RSP_VALID` set (R18, R23). -/
def complete (r : Result) (s : State) : Host.Outcome State Fault Refusal :=
  .next (s.afterEdge true r)

/-- `raise <Error>(info)` (R9, R75, R79): the record of a request that completes with an error. It is
`recorded`, which is `Res0` with the recorded values, under the status code of the error and with
`MATCH = 0`. The request completes like any other and nothing but `Res` and `RSP_VALID` changes. -/
def raiseError (code : StatusCode) (recorded : Result) : Result :=
  { recorded with status := code, matched := false }

/-- An edge with `RST == 1`: "the block loads the reset values ... whatever `REQ_VALID`, `CMD` and
`ROW_IN0..3` are" (R92). -/
def resetEdge (s : State) : Host.Outcome State Fault Refusal :=
  .next (s.afterEdge false Result.resetValues)

/-- An edge with no reset and no request "holds `Res` and clears `RSP_VALID`" (R91). DESIGN CHOICE (log
11): this is done in every state, so also before the first reset edge, where R25 and R94 call
`RSP_VALID` unspecified and R19, R23 and R91 set it to 0. -/
def idleEdge (s : State) : Host.Outcome State Fault Refusal :=
  .next (s.afterEdge false s.res)

/-- `OffsetROM`: the offset word of a role (R13). -/
def offsetRom (r : Role) : Checkword :=
  match r with
  | .A => 0b0011111100#10
  | .B => 0b0110011000#10
  | .C => 0b0101101000#10
  | .D => 0b0110110100#10
  | .E => 0b0000000000#10

/-- `MemRead_OffsetROM(code, 10)` at any 3-bit code: 0b101, 0b110 and 0b111 "address no entry"
(R27, R29; log 7). -/
def memReadOffsetRom (code : RoleCode) : Except Fault Checkword :=
  match roleOfCode? code with
  | some r => .ok (offsetRom r)
  | none => .error (.noOffsetEntry code)

/-- The names of the status codes (R46). -/
inductive StatusName where
  | ok | noMatch | duplicateRole | illegalRole | none
  deriving DecidableEq, Repr

/-- The host reads `STATUS`: the code's name, or a fault where the code is one that is "never
produced" (R46, 93 U5; log 6). Reading has no side effect (R37), so it is no step. -/
def statusName (c : StatusCode) : Except Fault StatusName :=
  if c = statusOk then .ok .ok
  else if c = statusNoMatch then .ok .noMatch
  else if c = statusDuplicateRole then .ok .duplicateRole
  else if c = statusIllegalRole then .ok .illegalRole
  else if c = statusNone then .ok .none
  else .error (.reservedStatus c)

/-- The host reads `ROLE_OUT`, `ERR_ROLE` or a `ROW_ROLE`: a role, `none` for `NONE`, or a fault
where the code is one that is "never output" (R44, 93 U6; log 6). -/
def shownRole (c : RoleCode) : Except Fault (Option Role) :=
  match roleOfCode? c with
  | some r => .ok (some r)
  | none => if c = roleNone then .ok none else .error (.reservedRole c)

end Sys2Proof.Machine
end

