-- ==== Sys2Proof/Machine/Operands.lean ====
section
/-! DEFINITION. The operand forms (30_encoding.md R47): a row word and its two fields (20_memory.md
R31, R32), the rows a request reads from the ports, and the serial form of a row (R33). -/

namespace Sys2Proof.Machine

/-- `data(w) = w[25:10]` (R31). -/
def rowData (w : Row) : Data := w.extractLsb' 10 16

/-- `cw(w) = w[9:0]` (R31). -/
def rowCheckword (w : Row) : Checkword := w.extractLsb' 0 10

/-- `w = data ‖ checkword` (R31). -/
def mkRow (d : Data) (c : Checkword) : Row := d ++ c

/-- The row words on `ROW_IN0..3`, rows 0 to 3 of SYNC in that order (R47). -/
def operandRows (s : State) : Rows := s.inputs.rowIn

/-- The row of the single-row operations, `ROW_IN0` (R47). -/
def operandRow (s : State) : Row := (operandRows s)[0]

/-- `d = ROW_IN0[25:10]` (R47). -/
def operandData (s : State) : Data := rowData (operandRow s)

/-- `c = ROW_IN0[9:0]` (R47). -/
def operandCheckword (s : State) : Checkword := rowCheckword (operandRow s)

/-- One more character of a serial row, '1' read as `true`, at the low end (R33). -/
def serialStep (w : Row) (c : Bool) : Row := (w <<< 1) ||| (if c then 1#26 else 0#26)

/-- The row a serial string of 26 characters stands for: "its first character is `w[25]` and its 26th
is `w[0]`" (R33). A string of another length is no row. -/
def rowOfSerial? (cs : List Bool) : Option Row :=
  if cs.length = 26 then some (cs.foldl serialStep 0#26) else none

/-- The serial string of a row, most significant bit first (R33). -/
def rowToSerial (w : Row) : List Bool :=
  [25, 24, 23, 22, 21, 20, 19, 18, 17, 16, 15, 14, 13, 12, 11, 10, 9, 8, 7, 6, 5, 4, 3, 2, 1, 0].map
    (fun i => w.getLsbD i)

/-- The serial string of a group: its rows one after another, `ROW_IN0` first (R33). -/
def groupToSerial (w : Rows) : List Bool :=
  rowToSerial w[0] ++ rowToSerial w[1] ++ rowToSerial w[2] ++ rowToSerial w[3]

/-- The rows of a group's serial string: "the row that comes first in the string is `ROW_IN0`" (R33). A
string that is not four rows of 26 characters is no group. -/
def groupOfSerial? (cs : List Bool) : Option Rows :=
  match rowOfSerial? (cs.take 26), rowOfSerial? ((cs.drop 26).take 26),
      rowOfSerial? ((cs.drop 52).take 26), rowOfSerial? (cs.drop 78) with
  | some row0, some row1, some row2, some row3 => some #v[row0, row1, row2, row3]
  | _, _, _, _ => none

end Sys2Proof.Machine
end

