-- ==== Sys2Proof/Machine/Flags.lean ====
section
/-! DEFINITION. The flags. "The block's only flags are `Res.STATUS` and `Res.MATCH`" (10_state.md
R20); the status codes stand in Machine/Codes.lean. -/

namespace Sys2Proof.Machine

/-- `MATCH` of CHK: 1 exactly when the expected checkword equals the received one, bit for bit
(R61). -/
def chkMatch (expected received : Checkword) : Bool := expected == received

/-- The lowest index whose bit is set, if any (R68, R69). -/
def lowestSet (v : Vector Bool 4) : Option (Fin 4) :=
  if v[0] then some 0
  else if v[1] then some 1
  else if v[2] then some 2
  else if v[3] then some 3
  else none

/-- A row index as `ERR_ROW` holds it (R18). -/
def rowIndexCode (i : Fin 4) : RowIndex := BitVec.ofNat 2 i.val

end Sys2Proof.Machine
end

