-- ==== Sys2Proof/Machine/CrcEngine.lean ====
section
/-! DEFINITION. The CRC engine: the functions of 40_crc_engine.md R53 to R57 and the meanings of
GEN (R60) and CHK (R61). -/

namespace Sys2Proof.Machine

/-- `GEN_POLY`, bit `i` being the coefficient of `x^i` (R12). -/
def genPoly : BitVec 11 := 0b10110111001#11

/-- One pass of R53's loop: where bit `b` is 1, the generator is XORed in with its top bit at `b`. -/
def divStep (v : BitVec 26) (b : Nat) : BitVec 26 :=
  if v.getLsbD b then v ^^^ (genPoly.setWidth 26 <<< (b - 10)) else v

/-- The bits R53's loop runs over: "for b = 25 down to 10". -/
def divBits : List Nat := [25, 24, 23, 22, 21, 20, 19, 18, 17, 16, 15, 14, 13, 12, 11, 10]

/-- The scratch value after R53's loop. -/
def divide (d : Data) : BitVec 26 := divBits.foldl divStep (d.setWidth 26 <<< 10)

/-- `Raw(d)`, the raw remainder (R53). -/
def raw (d : Data) : Checkword := (divide d).extractLsb' 0 10

/-- `P[i] = Raw(1 << i)`, bit 0 first (the table of R54). -/
def parityTable : List Checkword :=
  [0x1B9#10, 0x372#10, 0x35D#10, 0x303#10, 0x3BF#10, 0x2C7#10, 0x037#10, 0x06E#10,
   0x0DC#10, 0x1B8#10, 0x370#10, 0x359#10, 0x30B#10, 0x3AF#10, 0x2E7#10, 0x077#10]

/-- R54's parity form: the XOR of `P[i]` over every `i` with `d[i] = 1`. -/
def rawParity (d : Data) : Checkword :=
  parityTable.zipIdx.foldl (fun a p => if d.getLsbD p.2 then a ^^^ p.1 else a) 0#10

/-- The XOR of the data bits at the given positions. -/
def xorBits (d : Data) (ps : List Nat) : Bool := ps.foldl (fun a p => a != d.getLsbD p) false

/-- R54's network, written per output bit, bit 0 first. -/
def networkTaps : List (List Nat) :=
  [[15, 14, 13, 12, 11, 6, 5, 4, 3, 2, 0],
   [15, 14, 13, 12, 7, 6, 5, 4, 3, 1],
   [15, 14, 13, 8, 7, 6, 5, 4, 2],
   [13, 12, 11, 9, 8, 7, 4, 2, 0],
   [15, 11, 10, 9, 8, 6, 4, 2, 1, 0],
   [15, 14, 13, 10, 9, 7, 6, 4, 1, 0],
   [15, 14, 11, 10, 8, 7, 5, 2, 1],
   [14, 13, 9, 8, 5, 4, 0],
   [13, 12, 11, 10, 9, 4, 3, 2, 1, 0],
   [14, 13, 12, 11, 10, 5, 4, 3, 2, 1]]

/-- `Cw(d, r) = Raw(d) ^ Off(r)` (R55). -/
def checkword (d : Data) (r : Role) : Checkword := raw d ^^^ offsetRom r

/-- `Syn(w) = cw(w) ^ Raw(data(w))` (R57). -/
def syndrome (w : Row) : Checkword := rowCheckword w ^^^ raw (rowData w)

/-- `Cw(data(w), r) == cw(w)`: row `w` matches role `r` (R57, R64). -/
def matchesRole (w : Row) (r : Role) : Bool :=
  chkMatch (checkword (rowData w) r) (rowCheckword w)

/-- The record GEN writes (R60). -/
def genResult (r : Role) (d : Data) : Result :=
  { Result.empty with cwOut := checkword d r, roleOut := roleCode r }

/-- The record CHK writes (R61). -/
def chkResult (r : Role) (d : Data) (c : Checkword) : Result :=
  { Result.empty with
    cwOut := checkword d r, roleOut := roleCode r, matched := chkMatch (checkword d r) c }

/-- GEN under a role (R60). -/
def gen (r : Role) (s : State) : Host.Outcome State Fault Refusal :=
  complete (genResult r (operandData s)) s

/-- CHK against a role (R61). -/
def chk (r : Role) (s : State) : Host.Outcome State Fault Refusal :=
  complete (chkResult r (operandData s) (operandCheckword s)) s

/-- GEN.A (R60). -/
def execGenA (s : State) : Host.Outcome State Fault Refusal := gen .A s

/-- GEN.B (R60). -/
def execGenB (s : State) : Host.Outcome State Fault Refusal := gen .B s

/-- GEN.C (R60). -/
def execGenC (s : State) : Host.Outcome State Fault Refusal := gen .C s

/-- GEN.D (R60). -/
def execGenD (s : State) : Host.Outcome State Fault Refusal := gen .D s

/-- GEN.E (R60). -/
def execGenE (s : State) : Host.Outcome State Fault Refusal := gen .E s

/-- CHK.A (R61). -/
def execChkA (s : State) : Host.Outcome State Fault Refusal := chk .A s

/-- CHK.B (R61). -/
def execChkB (s : State) : Host.Outcome State Fault Refusal := chk .B s

/-- CHK.C (R61). -/
def execChkC (s : State) : Host.Outcome State Fault Refusal := chk .C s

/-- CHK.D (R61). -/
def execChkD (s : State) : Host.Outcome State Fault Refusal := chk .D s

/-- CHK.E (R61). -/
def execChkE (s : State) : Host.Outcome State Fault Refusal := chk .E s

end Sys2Proof.Machine
end

