-- ==== Sys2Proof/Machine/Illegal.lean ====
section
/-! DEFINITION. The six illegal command words (30_encoding.md R49, 60_exceptions.md R77). -/

namespace Sys2Proof.Machine

/-- `IllegalRole()`: `Res0` with `STATUS = ILLEGAL_ROLE`; no operand is read (R77). -/
def illegalRole (s : State) : Host.Outcome State Fault Refusal :=
  complete (raiseError statusIllegalRole Result.empty) s

/-- GEN with role code 0b101 (R77). -/
def execIllegalGen101 (s : State) : Host.Outcome State Fault Refusal := illegalRole s

/-- GEN with role code 0b110 (R77). -/
def execIllegalGen110 (s : State) : Host.Outcome State Fault Refusal := illegalRole s

/-- GEN with role code 0b111 (R77). -/
def execIllegalGen111 (s : State) : Host.Outcome State Fault Refusal := illegalRole s

/-- CHK with role code 0b101 (R77). -/
def execIllegalChk101 (s : State) : Host.Outcome State Fault Refusal := illegalRole s

/-- CHK with role code 0b110 (R77). -/
def execIllegalChk110 (s : State) : Host.Outcome State Fault Refusal := illegalRole s

/-- CHK with role code 0b111 (R77). -/
def execIllegalChk111 (s : State) : Host.Outcome State Fault Refusal := illegalRole s

end Sys2Proof.Machine
end

