-- ==== Sys2Proof/Machine/Synchronizer.lean ====
section
/-! DEFINITION. The block synchronizer: the role match (41_synchronizer.md R64 to R66) and the
meanings of CLS (R67) and SYNC (R68, R69). -/

namespace Sys2Proof.Machine

/-- The trial order A, B, C, D; "Role E is never tried" (R65). -/
def trialOrder : List Role := [.A, .B, .C, .D]

/-- `Classify(w)`: the first role of the trial order that the row matches; `none` is `NONE` (R66). -/
def classify (w : Row) : Option Role := trialOrder.find? (fun r => matchesRole w r)

/-- The record CLS writes (R67): the role of the row, or `NO_MATCH` at row 0; `CW_OUT` is the syndrome
in both outcomes. -/
def clsResult (w : Row) : Result :=
  match classify w with
  | some r => { Result.empty with matched := true, roleOut := roleCode r, cwOut := syndrome w }
  | none =>
    raiseError statusNoMatch { Result.empty with errRow := rowIndexCode 0, cwOut := syndrome w }

/-- What SYNC keeps while it scans the rows (the variables of R68). The claim set exists only inside
one request (R22). -/
structure SyncScan where
  /-- `claimed[r]`: an earlier row holds role `r`. -/
  claimed : List Role
  /-- `asg[i]`: the role assigned to row `i`. -/
  asg : Vector (Option Role) 4
  /-- `nomatch[i]`: row `i` matches no role. -/
  noMatch : Vector Bool 4
  /-- `dup[i]`: row `i` matched a role that an earlier row holds. -/
  dup : Vector Bool 4
  deriving DecidableEq, Repr

/-- The scan before the first row: no role claimed, no row assigned (R68). -/
def SyncScan.start : SyncScan :=
  { claimed := []
    asg := #v[none, none, none, none]
    noMatch := #v[false, false, false, false]
    dup := #v[false, false, false, false] }

/-- One pass of R68's loop, for row `i` whose `Classify` is `m`: "first match wins; no
backtracking". -/
def SyncScan.visit (a : SyncScan) (i : Fin 4) (m : Option Role) : SyncScan :=
  match m with
  | none => { a with noMatch := a.noMatch.set i true }
  | some r =>
    if r ∈ a.claimed then { a with dup := a.dup.set i true }
    else { a with claimed := r :: a.claimed, asg := a.asg.set i (some r) }

/-- The rows in physical order (R68). -/
def rowOrder : List (Fin 4) := [0, 1, 2, 3]

/-- The scan of a group whose rows classify as `m` (R68). -/
def syncScan (m : Vector (Option Role) 4) : SyncScan :=
  rowOrder.foldl (fun a i => a.visit i m[i]) SyncScan.start

/-- `Classify` of each row of a group. -/
def classifyRows (w : Rows) : Vector (Option Role) 4 :=
  #v[classify w[0], classify w[1], classify w[2], classify w[3]]

/-- One pass of "for i = 0 to 3: R.GROUP_OUT[asg[i]] <- W[i]" (R68). -/
def placeRow (w : Rows) (asg : Vector (Option Role) 4) (g : Rows) (i : Fin 4) : Rows :=
  match asg[i] with
  | some r => g.setIfInBounds (roleCode r).toNat w[i]
  | none => g

/-- `GROUP_OUT` of a group that synchronized (R68, R70). -/
def placeRows (w : Rows) (asg : Vector (Option Role) 4) : Rows :=
  rowOrder.foldl (placeRow w asg) Result.empty.groupOut

/-- `ROW_ROLE` as assigned (R68, R69). -/
def rowRoles (asg : Vector (Option Role) 4) : Vector RoleCode 4 :=
  #v[roleOutCode asg[0], roleOutCode asg[1], roleOutCode asg[2], roleOutCode asg[3]]

/-- The record SYNC writes for the rows `w` (R68): `NO_MATCH` ahead of `DUPLICATE_ROLE`, and the
lowest row index within one kind of error (R69, R80). -/
def syncResult (w : Rows) : Result :=
  let m := classifyRows w
  let a := syncScan m
  let r := { Result.empty with rowRole := rowRoles a.asg }
  match lowestSet a.noMatch with
  | some i => raiseError statusNoMatch { r with errRow := rowIndexCode i }
  | none =>
    match lowestSet a.dup with
    | some i =>
      raiseError statusDuplicateRole
        { r with errRow := rowIndexCode i, errRole := roleOutCode m[i] }
    | none => { r with matched := true, groupOut := placeRows w a.asg }

/-- CLS; it ignores `CMD[4:2]` and `ROW_IN1..3` (R48, R67). -/
def execCls (_role : RoleCode) (s : State) : Host.Outcome State Fault Refusal :=
  complete (clsResult (operandRow s)) s

/-- SYNC; it ignores `CMD[4:2]` (R48, R68). -/
def execSync (_role : RoleCode) (s : State) : Host.Outcome State Fault Refusal :=
  complete (syncResult (operandRows s)) s

end Sys2Proof.Machine
end

