-- ==== Sys2Proof/Machine/Dispatch.lean ====
section
/-! DEFINITION. `Exec` after decoding (30_encoding.md R45): one arm per row of the opcode table. -/

namespace Sys2Proof.Machine

def exec (i : Instr) (s : State) : Host.Outcome State Fault Refusal :=
  match i with
  | .genA => Sys2Proof.Machine.execGenA s
  | .genB => Sys2Proof.Machine.execGenB s
  | .genC => Sys2Proof.Machine.execGenC s
  | .genD => Sys2Proof.Machine.execGenD s
  | .genE => Sys2Proof.Machine.execGenE s
  | .chkA => Sys2Proof.Machine.execChkA s
  | .chkB => Sys2Proof.Machine.execChkB s
  | .chkC => Sys2Proof.Machine.execChkC s
  | .chkD => Sys2Proof.Machine.execChkD s
  | .chkE => Sys2Proof.Machine.execChkE s
  | .cls role => Sys2Proof.Machine.execCls role s
  | .sync role => Sys2Proof.Machine.execSync role s
  | .illegalGen101 => Sys2Proof.Machine.execIllegalGen101 s
  | .illegalGen110 => Sys2Proof.Machine.execIllegalGen110 s
  | .illegalGen111 => Sys2Proof.Machine.execIllegalGen111 s
  | .illegalChk101 => Sys2Proof.Machine.execIllegalChk101 s
  | .illegalChk110 => Sys2Proof.Machine.execIllegalChk110 s
  | .illegalChk111 => Sys2Proof.Machine.execIllegalChk111 s

end Sys2Proof.Machine
end

