-- ==== Sys2Proof/Machine/Step.lean ====
section
/-! DEFINITION. One step is one rising edge of `CLK` (10_state.md R23; log 10). -/

namespace Sys2Proof.Machine

/-- R23: the block samples its inputs and does exactly one of reset, request and hold. -/
def step (s : State) : Host.Outcome State Fault Refusal :=
  if s.inputs.rst then resetEdge s
  else if s.inputs.reqValid then exec (decode s.inputs.cmd) s
  else idleEdge s

/-- The inputs of an edge that presents a request (R52). -/
def requestInputs (cmd : CmdWord) (rowIn : Rows) : Inputs :=
  { rst := false, reqValid := true, cmd := cmd, rowIn := rowIn }

/-- `s` with the request whose low `nbits` bits are `w`, its other bits 0, presented at the coming
edge (log 1, log 5). Bits beyond the 109 of a request are on no port. -/
def State.withFetchWord (s : State) (nbits w : Nat) : State :=
  let r := splitRequest (BitVec.ofNat 109 (w % 2 ^ nbits))
  { s with upcoming := requestInputs r.cmd r.rowIn :: s.upcoming }

end Sys2Proof.Machine
end

