-- ==== Sys2Proof/Machine/Assembler.lean ====
section
/-! DEFINITION. The assembler lines of 30_encoding.md R51 and R52 as the edges they stand for. A line
is abstract: its text (spelling, comments, number bases) is notation only (92 D25; log 8). -/

namespace Sys2Proof.Machine

/-- A line of a program (R51, R52). A row operand is a 26-bit word; `mkRow` makes one of
`data:cw`. -/
inductive Line where
  | gen (r : Role) (d : Data)
  | chk (r : Role) (d : Data) (c : Checkword)
  | cls (d : Data) (c : Checkword)
  | sync (row0 row1 row2 row3 : Row)
  | req (cmd : CmdWord) (row0 row1 row2 row3 : Row)
  | nop
  | reset
  | wait (n : Nat)
  deriving DecidableEq, Repr

/-- "The assembler writes 0 into every input the operation ignores" (R51). -/
def singleRow (w : Row) : Rows := #v[w, 0#26, 0#26, 0#26]

/-- `NOP`: `RST = 0`, `REQ_VALID = 0`; the other inputs don't care and are written 0 (R52, log 8). -/
def nopInputs : Inputs :=
  { rst := false, reqValid := false, cmd := 0#5, rowIn := singleRow 0#26 }

/-- `RESET`: `RST = 1`; the other inputs don't care and are written 0 (R52, log 8). -/
def resetInputs : Inputs :=
  { rst := true, reqValid := false, cmd := 0#5, rowIn := singleRow 0#26 }

/-- The edges of one line (R51, R52). -/
def assembleLine (l : Line) : List Inputs :=
  match l with
  | .gen r d => [requestInputs (roleCode r ++ 0b00#2) (singleRow (mkRow d 0x000#10))]
  | .chk r d c => [requestInputs (roleCode r ++ 0b01#2) (singleRow (mkRow d c))]
  | .cls d c => [requestInputs (0b000#3 ++ 0b10#2) (singleRow (mkRow d c))]
  | .sync row0 row1 row2 row3 => [requestInputs (0b000#3 ++ 0b11#2) #v[row0, row1, row2, row3]]
  | .req cmd row0 row1 row2 row3 => [requestInputs cmd #v[row0, row1, row2, row3]]
  | .nop => [nopInputs]
  | .reset => [resetInputs]
  | .wait n => List.replicate n nopInputs

/-- The line that a group's serial string stands for: "the SYNC request that receives the group", its
first row on `ROW_IN0` (R33). -/
def lineOfSerialGroup? (cs : List Bool) : Option Line :=
  (groupOfSerial? cs).map fun w => .sync w[0] w[1] w[2] w[3]

/-- A program is the sequence of the edges of its lines (R103). -/
def assemble (p : List Line) : List Inputs := p.flatMap assembleLine

/-- `s` with a program placed before the edges already placed. -/
def State.withProgram (s : State) (p : List Line) : State :=
  { s with upcoming := assemble p ++ s.upcoming }

end Sys2Proof.Machine
end

