-- ==== Sys2Proof/Safety.lean ====
section
/-! DEFINITION. What counts as a good state: the result registers show a record that reset or the rule
of some request produces, and `RSP_VALID` never marks a record that no request wrote. Every clause is
read off a rule; each is decidable. -/

namespace Sys2Proof.Machine

/-- The codes of a record are ones the block shows: no status 0b100 to 0b110 (R46, 93 U5) and no role
0b101 or 0b110 (R44, 93 U6). -/
abbrev Result.CodesShown (r : Result) : Prop :=
  statusCodeShown r.status = true ∧ roleCodeShown r.roleOut = true ∧
    roleCodeShown r.errRole = true ∧ ∀ i : Fin 4, roleCodeShown r.rowRole[i] = true

/-- A record of GEN or CHK (R60, R61). -/
abbrev Result.FromCrc (r : Result) : Prop :=
  roleCodeLegal r.roleOut = true ∧
    r = { Result.empty with cwOut := r.cwOut, roleOut := r.roleOut, matched := r.matched }

/-- A record of CLS on a row with a role: "after a match it equals `Off(ROLE_OUT)`" (R67). -/
abbrev Result.FromClsMatch (r : Result) : Prop :=
  ∃ x ∈ trialOrder,
    r = { Result.empty with matched := true, roleOut := roleCode x, cwOut := offsetRom x }

/-- A record of CLS on a row with no role (R67). -/
abbrev Result.FromClsNoMatch (r : Result) : Prop :=
  (∀ x ∈ trialOrder, r.cwOut ≠ offsetRom x) ∧
    r = { Result.empty with status := statusNoMatch, cwOut := r.cwOut }

/-- A record of a successful SYNC: "each of A,B,C,D is assigned to exactly one Row", and
`GROUP_OUT[k]` holds a row of role `k` (R70). -/
abbrev Result.FromSync (r : Result) : Prop :=
  (∀ x ∈ trialOrder, ∃ i : Fin 4, r.rowRole[i] = roleCode x) ∧
    classifyRows r.groupOut = #v[some .A, some .B, some .C, some .D] ∧
    r = { Result.empty with matched := true, rowRole := r.rowRole, groupOut := r.groupOut }

/-- `ROW_ROLE` as the scan of R68 leaves it: each entry is `NONE` or a role of the trial order, so never E
(R44), and no role stands at two rows, because a claimed role is not assigned again (R68). -/
abbrev Result.RowRolesAssigned (r : Result) : Prop :=
  (∀ i : Fin 4, r.rowRole[i] = roleNone ∨ ∃ x ∈ trialOrder, r.rowRole[i] = roleCode x) ∧
    ∀ i j : Fin 4, i < j → r.rowRole[i] = r.rowRole[j] → r.rowRole[i] = roleNone

/-- A record of a SYNC with a row that matches no role: the row named holds none, and row 0 holds one
unless it is the row named, because no earlier row can have claimed its role (R68, R69). -/
abbrev Result.FromSyncNoMatch (r : Result) : Prop :=
  r.RowRolesAssigned ∧
    (∃ i : Fin 4, r.errRow = rowIndexCode i ∧ r.rowRole[i] = roleNone ∧
      (0 < i → r.rowRole[(0 : Fin 4)] ≠ roleNone)) ∧
    r = { Result.empty with
      status := statusNoMatch, errRow := r.errRow, rowRole := r.rowRole }

/-- A record of a SYNC with two rows of one role: the row named holds none, every earlier row holds a
role, and one of them holds the role named (R68, R69). -/
abbrev Result.FromSyncDuplicate (r : Result) : Prop :=
  r.RowRolesAssigned ∧
    (∃ i : Fin 4, r.errRow = rowIndexCode i ∧ r.rowRole[i] = roleNone ∧
      (∀ j : Fin 4, j < i → r.rowRole[j] ≠ roleNone) ∧
      ∃ j : Fin 4, j < i ∧ r.rowRole[j] = r.errRole) ∧
    r = { Result.empty with
      status := statusDuplicateRole, errRow := r.errRow, errRole := r.errRole,
      rowRole := r.rowRole }

/-- The record of an illegal command word (R77). -/
abbrev Result.FromIllegal (r : Result) : Prop :=
  r = { Result.empty with status := statusIllegalRole }

/-- The record is one that some request writes. The clauses are exact: `Obligations.RequestRecordsAreExact`
states that each such record is written by some request. -/
abbrev Result.FromRequest (r : Result) : Prop :=
  r.FromCrc ∨ r.FromClsMatch ∨ r.FromClsNoMatch ∨ r.FromSync ∨ r.FromSyncNoMatch ∨
    r.FromSyncDuplicate ∨ r.FromIllegal

/-- The invariant of every state after a first reset edge: codes that the block shows, a record of
reset or of a request, and no `RSP_VALID` beside the record of reset (R19, R95). -/
abbrev State.Coherent (s : State) : Prop :=
  s.res.CodesShown ∧
    ((s.res = Result.resetValues ∧ s.rspValid = false) ∨ s.res.FromRequest)

/-- The result of the block as the host may read it without meeting a reserved code (93 U5, U6). -/
abbrev State.Readable (s : State) : Prop := s.res.CodesShown

end Sys2Proof.Machine
end

