-- ==== Sys2Proof/Certificates/Slice0/Obligations.lean ====
section
/-! DEFINITION. The statements for the provers. Each says in its docstring which rule of spec/ it
formalises, or which design choice of the model it rests on. -/

namespace Sys2Proof.Machine

/-- GEN under a role, as an instruction (R45). -/
def genOf (r : Role) : Instr :=
  match r with
  | .A => .genA
  | .B => .genB
  | .C => .genC
  | .D => .genD
  | .E => .genE

/-- CHK against a role, as an instruction (R45). -/
def chkOf (r : Role) : Instr :=
  match r with
  | .A => .chkA
  | .B => .chkB
  | .C => .chkC
  | .D => .chkD
  | .E => .chkE

/-- The six illegal command words (R49). -/
def illegalInstrs : List Instr :=
  [.illegalGen101, .illegalGen110, .illegalGen111, .illegalChk101, .illegalChk110, .illegalChk111]

/-- The role at canonical position `k` of a group (R44, R68). -/
def canonicalRole (k : Fin 4) : Role := #v[Role.A, .B, .C, .D][k]

/-- The role R68's scan assigns to row `i`: the role the row matches, unless an earlier row matched it
too. -/
def assignedRole (w : Rows) (i : Fin 4) : Option Role :=
  if ∃ j : Fin 4, j < i ∧ classify w[j] = classify w[i] then none else classify w[i]

/-- An edge that serves a request or resets, the only kinds that write `Res` (R23). -/
def Inputs.Effective (e : Inputs) : Prop := e.rst = true ∨ e.reqValid = true

/-- An edge that neither resets nor serves a request (R91). -/
def Inputs.Idle (e : Inputs) : Prop := e.rst = false ∧ e.reqValid = false

/-- An edge at which a request is accepted (R23). -/
def Inputs.Accepted (e : Inputs) : Prop := e.rst = false ∧ e.reqValid = true

/-- A bit vector as a polynomial over GF(2), bit `i` the coefficient of `x^i` (R7, R12). -/
noncomputable def bitsPoly {n : Nat} (v : BitVec n) : Polynomial (ZMod 2) :=
  ∑ i : Fin n, if v.getLsbD i then Polynomial.X ^ (i : Nat) else 0

/-- `q(x) · g(x)` for a `q` of degree at most 5, a word of degree at most 15 (R56). -/
def genMultiple (q : BitVec 6) : Data :=
  [0, 1, 2, 3, 4, 5].foldl
    (fun a i => if q.getLsbD i then a ^^^ (genPoly.setWidth 16 <<< i) else a) 0#16

/-- `S[k]`, the change of the syndrome when row bit `k` flips (the table of R59). -/
def flipSyndrome : Vector Checkword 26 :=
  #v[0x001#10, 0x002#10, 0x004#10, 0x008#10, 0x010#10, 0x020#10, 0x040#10, 0x080#10, 0x100#10,
     0x200#10, 0x1B9#10, 0x372#10, 0x35D#10, 0x303#10, 0x3BF#10, 0x2C7#10, 0x037#10, 0x06E#10,
     0x0DC#10, 0x1B8#10, 0x370#10, 0x359#10, 0x30B#10, 0x3AF#10, 0x2E7#10, 0x077#10]

/-- Row `w` with bit `k` flipped (R59). -/
def flipBit (w : Row) (k : Fin 26) : Row := w ^^^ (1#26 <<< k.val)

end Sys2Proof.Machine

open Sys2Proof Sys2Proof.Machine

/-! ### The step -/

/-- R23: at each edge the block does exactly one of reset, request and hold; with `step` answering a
next state in all three. The decoded request is run by `exec` at the same state. That R23's last line
holds before the first reset edge too, where R25 leaves `RSP_VALID` open, is the model's choice
(log 11). -/
def Obligations.EdgeResetsServesOrHolds : Prop :=
  ∀ s : State,
    (s.inputs.rst = true →
      ∃ t, step s = .next t ∧ t.res = Result.resetValues ∧ t.rspValid = false) ∧
    (s.inputs.rst = false → s.inputs.reqValid = true →
      step s = exec (decode s.inputs.cmd) s ∧ ∃ t, step s = .next t ∧ t.rspValid = true) ∧
    (s.inputs.rst = false → s.inputs.reqValid = false →
      ∃ t, step s = .next t ∧ t.res = s.res ∧ t.rspValid = false)

/-- When the inputs placed for the coming edge are a request whose command word decodes to a
well-formed `i` (in particular the encoding of `i`), the step is `exec` of `i` at that state on
exactly the placed rows, and the edge's inputs are used up. The placing of inputs in a list is the
model's choice (log 1). -/
def Obligations.StepRunsDecodedRequest : Prop :=
  ∀ (s : State) (i : Instr) (cmd : CmdWord) (w : Rows) (rest : List Inputs),
    i.wf = true → decode cmd = i → s.upcoming = requestInputs cmd w :: rest →
      step s = exec i s ∧ operandRows s = w ∧ ∀ t, step s = .next t → t.upcoming = rest

/-- A word placed by `withFetchWord` is run by the next step as the instruction the decoder reads from
it. The numbering of a request's bits is the model's choice (log 5). -/
def Obligations.PlacedTableWordRunsNext : Prop :=
  ∀ (s : State) (nbits w : Nat) (i : Instr),
    decodeTableWord nbits w = some i →
      step (s.withFetchWord nbits w) = exec i (s.withFetchWord nbits w)

/-- R24: the state after an edge with `RST == 1`, field by field, and the two constants. -/
def Obligations.ResetEdgeLoadsResetValues : Prop :=
  (∀ s : State, s.inputs.rst = true →
    ∃ t, step s = .next t ∧ t.rspValid = false ∧
      t.res = { status := 0b111#3, matched := false, roleOut := 0b111#3, cwOut := 0x000#10,
                errRow := 0#2, errRole := 0b111#3,
                rowRole := #v[0b111#3, 0b111#3, 0b111#3, 0b111#3],
                groupOut := #v[0#26, 0#26, 0#26, 0#26] } ∧
      t.res = State.reset.res ∧ t.rspValid = State.reset.rspValid) ∧
  genPoly = 0x5B9#11 ∧
  [Role.A, .B, .C, .D, .E].map offsetRom = [0x0FC#10, 0x198#10, 0x168#10, 0x1B4#10, 0x000#10]

/-- R91: "An idle edge (`REQ_VALID = 0`) holds `Res` and clears `RSP_VALID`; nothing else changes"
beside the model's own record of the edges. That it holds before the first reset edge too, where R25
leaves `RSP_VALID` open, is the model's choice (log 11). -/
def Obligations.IdleEdgeHoldsResult : Prop :=
  ∀ s : State, s.inputs.Idle →
    step s =
      .next { rspValid := false, res := s.res, upcoming := s.upcoming.tail, edgeNo := s.edgeNo + 1 }

/-- R92, R52: what a reset edge or an idle edge does to `Res` and `RSP_VALID` does not depend on any
other input. This is why the zeros the assembler writes into don't-care inputs (log 8) are without
effect. That an idle edge before the first reset edge clears `RSP_VALID` is the model's choice (log
11). -/
def Obligations.ResetAndIdleIgnoreOtherInputs : Prop :=
  ∀ s s' t t' : State, step s = .next t → step s' = .next t' →
    (s.inputs.rst = true → s'.inputs.rst = true → t.res = t'.res ∧ t.rspValid = t'.rspValid) ∧
    (s.inputs.Idle → s'.inputs.Idle → s.res = s'.res → t.res = t'.res ∧ t.rspValid = t'.rspValid)

/-- R19, R23: after an edge `RSP_VALID` is 1 exactly when a request was accepted at it. That this holds
before the first reset edge too, where R25 leaves `RSP_VALID` open, is the model's choice (log 11). -/
def Obligations.RspValidMarksAcceptedRequest : Prop :=
  ∀ s t : State, step s = .next t → (t.rspValid = true ↔ s.inputs.Accepted)

/-- R103, R23: the block has no halt state. A run of any length from any state answers a next state,
one edge a step, using the placed inputs in order. -/
def Obligations.RunsNeverStop : Prop :=
  ∀ (n : Nat) (s : State),
    ∃ t : State, Sys2Proof.core.run n s = .next t ∧ t.edgeNo = s.edgeNo + n ∧
      t.upcoming = s.upcoming.drop n

/-! ### Completion, results and frames of the requests -/

/-- The frame of all requests: every command word completes, sets `RSP_VALID`, and outside `Res` and
`RSP_VALID` changes nothing (R49, R79) beside the model's own record of the edges. -/
def Obligations.RequestWritesOnlyResAndValid : Prop :=
  ∀ (i : Instr) (s : State),
    ∃ t : State, exec i s = .next t ∧ t.rspValid = true ∧ t.upcoming = s.upcoming.tail ∧
      t.edgeNo = s.edgeNo + 1

/-- R60: GEN.A to GEN.E complete from every state; `CW_OUT` is `Raw(d)` XOR the role's offset word,
`ROLE_OUT` its code, and every other field is empty. -/
def Obligations.GenWritesCheckword : Prop :=
  ∀ (s : State) (x : Instr × RoleCode × Checkword),
    x ∈ [(Instr.genA, 0b000#3, 0b0011111100#10), (Instr.genB, 0b001#3, 0b0110011000#10),
         (Instr.genC, 0b010#3, 0b0101101000#10), (Instr.genD, 0b011#3, 0b0110110100#10),
         (Instr.genE, 0b100#3, 0b0000000000#10)] →
    exec x.1 s =
      .next
        { rspValid := true
          res := { status := 0b000#3, matched := false, roleOut := x.2.1,
                   cwOut := raw ((s.inputs.rowIn[0]).extractLsb' 10 16) ^^^ x.2.2,
                   errRow := 0#2, errRole := 0b111#3,
                   rowRole := #v[0b111#3, 0b111#3, 0b111#3, 0b111#3],
                   groupOut := #v[0#26, 0#26, 0#26, 0#26] }
          upcoming := s.upcoming.tail
          edgeNo := s.edgeNo + 1 }

/-- R61: CHK.A to CHK.E complete from every state; `CW_OUT` is the expected checkword, `MATCH` is 1
exactly when the received one equals it, and every other field is empty. -/
def Obligations.ChkComparesCheckword : Prop :=
  ∀ (s : State) (x : Instr × RoleCode × Checkword),
    x ∈ [(Instr.chkA, 0b000#3, 0b0011111100#10), (Instr.chkB, 0b001#3, 0b0110011000#10),
         (Instr.chkC, 0b010#3, 0b0101101000#10), (Instr.chkD, 0b011#3, 0b0110110100#10),
         (Instr.chkE, 0b100#3, 0b0000000000#10)] →
    ∃ b : Bool,
      (b = true ↔
        raw ((s.inputs.rowIn[0]).extractLsb' 10 16) ^^^ x.2.2 =
          (s.inputs.rowIn[0]).extractLsb' 0 10) ∧
      exec x.1 s =
        .next
          { rspValid := true
            res := { status := 0b000#3, matched := b, roleOut := x.2.1,
                     cwOut := raw ((s.inputs.rowIn[0]).extractLsb' 10 16) ^^^ x.2.2,
                     errRow := 0#2, errRole := 0b111#3,
                     rowRole := #v[0b111#3, 0b111#3, 0b111#3, 0b111#3],
                     groupOut := #v[0#26, 0#26, 0#26, 0#26] }
            upcoming := s.upcoming.tail
            edgeNo := s.edgeNo + 1 }

/-- R67: CLS completes from every state. Where the syndrome is the offset word of a role of the trial
order, that role is reported; where it is none of the four, `NO_MATCH` at row 0; `CW_OUT` is the
syndrome in both outcomes, and the `ROLE` field does not matter. -/
def Obligations.ClsReportsRoleBySyndrome : Prop :=
  ∀ (role : RoleCode) (s : State),
    let w := s.inputs.rowIn[0]
    let syn := w.extractLsb' 0 10 ^^^ raw (w.extractLsb' 10 16)
    (∀ k : Fin 4, syn = offsetRom (canonicalRole k) →
      exec (.cls role) s =
        .next
          { rspValid := true
            res := { status := 0b000#3, matched := true, roleOut := BitVec.ofNat 3 k, cwOut := syn,
                     errRow := 0#2, errRole := 0b111#3,
                     rowRole := #v[0b111#3, 0b111#3, 0b111#3, 0b111#3],
                     groupOut := #v[0#26, 0#26, 0#26, 0#26] }
            upcoming := s.upcoming.tail
            edgeNo := s.edgeNo + 1 }) ∧
    ((∀ k : Fin 4, syn ≠ offsetRom (canonicalRole k)) →
      exec (.cls role) s =
        .next
          { rspValid := true
            res := { status := 0b001#3, matched := false, roleOut := 0b111#3, cwOut := syn,
                     errRow := 0#2, errRole := 0b111#3,
                     rowRole := #v[0b111#3, 0b111#3, 0b111#3, 0b111#3],
                     groupOut := #v[0#26, 0#26, 0#26, 0#26] }
            upcoming := s.upcoming.tail
            edgeNo := s.edgeNo + 1 })

/-- R68, success: where each of A, B, C, D is the role of some row, SYNC completes with `STATUS = OK`,
`MATCH = 1`, each row's role in `ROW_ROLE` and each row at its role's place in `GROUP_OUT`. -/
def Obligations.SyncPlacesRowsByRole : Prop :=
  ∀ (role : RoleCode) (s : State),
    let w := s.inputs.rowIn
    (∀ k : Fin 4, ∃ i : Fin 4, classify w[i] = some (canonicalRole k)) →
      ∃ g : Rows,
        (∀ i k : Fin 4, classify w[i] = some (canonicalRole k) → g[k] = w[i]) ∧
        exec (.sync role) s =
          .next
            { rspValid := true
              res := { status := 0b000#3, matched := true, roleOut := 0b111#3, cwOut := 0#10,
                       errRow := 0#2, errRole := 0b111#3,
                       rowRole := Vector.ofFn fun i : Fin 4 => roleOutCode (classify w[i]),
                       groupOut := g }
              upcoming := s.upcoming.tail
              edgeNo := s.edgeNo + 1 }

/-- R69, `NO_MATCH`: where row `i` is the first row with no role, SYNC completes with `NO_MATCH` at row
`i`, whether or not two rows share a role (R80); `ROW_ROLE` is as assigned and `GROUP_OUT` is 0. -/
def Obligations.SyncNamesFirstUnmatchedRow : Prop :=
  ∀ (role : RoleCode) (s : State) (i : Fin 4),
    let w := s.inputs.rowIn
    classify w[i] = none → (∀ j : Fin 4, j < i → classify w[j] ≠ none) →
      exec (.sync role) s =
        .next
          { rspValid := true
            res := { status := 0b001#3, matched := false, roleOut := 0b111#3, cwOut := 0#10,
                     errRow := BitVec.ofNat 2 i, errRole := 0b111#3,
                     rowRole := Vector.ofFn fun j : Fin 4 => roleOutCode (assignedRole w j),
                     groupOut := #v[0#26, 0#26, 0#26, 0#26] }
            upcoming := s.upcoming.tail
            edgeNo := s.edgeNo + 1 }

/-- R69, `DUPLICATE_ROLE`: where every row has a role and row `i` is the first whose role `r` an
earlier row has, SYNC completes with `DUPLICATE_ROLE` at row `i` and role `r`; `ROW_ROLE` is as
assigned and `GROUP_OUT` is 0. -/
def Obligations.SyncNamesFirstDuplicateRow : Prop :=
  ∀ (role : RoleCode) (s : State) (i : Fin 4) (r : Role),
    let w := s.inputs.rowIn
    (∀ j : Fin 4, classify w[j] ≠ none) → classify w[i] = some r →
    (∃ j : Fin 4, j < i ∧ classify w[j] = some r) →
    (∀ j k : Fin 4, j < k → k < i → classify w[j] ≠ classify w[k]) →
      exec (.sync role) s =
        .next
          { rspValid := true
            res := { status := 0b010#3, matched := false, roleOut := 0b111#3, cwOut := 0#10,
                     errRow := BitVec.ofNat 2 i, errRole := roleCode r,
                     rowRole := Vector.ofFn fun j : Fin 4 => roleOutCode (assignedRole w j),
                     groupOut := #v[0#26, 0#26, 0#26, 0#26] }
            upcoming := s.upcoming.tail
            edgeNo := s.edgeNo + 1 }

/-- R77: each of the six illegal command words completes with `STATUS = ILLEGAL_ROLE` and every other
field empty, whatever the rows. -/
def Obligations.IllegalWordReportsIllegalRole : Prop :=
  ∀ (i : Instr) (s : State), i ∈ illegalInstrs →
    exec i s =
      .next
        { rspValid := true
          res := { status := 0b011#3, matched := false, roleOut := 0b111#3, cwOut := 0x000#10,
                   errRow := 0#2, errRole := 0b111#3,
                   rowRole := #v[0b111#3, 0b111#3, 0b111#3, 0b111#3],
                   groupOut := #v[0#26, 0#26, 0#26, 0#26] }
          upcoming := s.upcoming.tail
          edgeNo := s.edgeNo + 1 }

/-- R18: the fields that no rule of a request names take their empty values, so that no field keeps
what an earlier request left in it. -/
def Obligations.UnnamedFieldsAreEmpty : Prop :=
  ∀ (i : Instr) (s t : State), exec i s = .next t →
    ((∀ role, i ≠ .sync role) →
      t.res.rowRole = #v[0b111#3, 0b111#3, 0b111#3, 0b111#3] ∧ t.res.errRow = 0#2) ∧
    ((∃ role, i = .sync role) → t.res.cwOut = 0#10 ∧ t.res.roleOut = 0b111#3) ∧
    (t.res.status ≠ 0b000#3 →
      t.res.matched = false ∧ t.res.roleOut = 0b111#3 ∧
        t.res.groupOut = #v[0#26, 0#26, 0#26, 0#26]) ∧
    (t.res.status ≠ 0b010#3 → t.res.errRole = 0b111#3) ∧
    (t.res.status = 0b000#3 → t.res.errRow = 0#2) ∧
    ((∀ role, i ≠ .sync role) → t.res.groupOut = #v[0#26, 0#26, 0#26, 0#26]) ∧
    ((∃ r, i = genOf r) → t.res.matched = false) ∧
    (i ∈ illegalInstrs → t.res.cwOut = 0#10)

/-- R78: which request can report which status. -/
def Obligations.StatusReportedByEachRequest : Prop :=
  ∀ (s t : State),
    (∀ r, exec (genOf r) s = .next t → t.res.status = 0b000#3) ∧
    (∀ r, exec (chkOf r) s = .next t → t.res.status = 0b000#3) ∧
    (∀ i ∈ illegalInstrs, exec i s = .next t → t.res.status = 0b011#3) ∧
    (∀ role, exec (.cls role) s = .next t →
      (classify s.inputs.rowIn[0] ≠ none → t.res.status = 0b000#3) ∧
      (classify s.inputs.rowIn[0] = none → t.res.status = 0b001#3)) ∧
    (∀ role, exec (.sync role) s = .next t →
      ((∃ i : Fin 4, classify s.inputs.rowIn[i] = none) → t.res.status = 0b001#3) ∧
      ((∀ i : Fin 4, classify s.inputs.rowIn[i] ≠ none) →
        (∃ i j : Fin 4, i < j ∧ classify s.inputs.rowIn[i] = classify s.inputs.rowIn[j]) →
        t.res.status = 0b010#3) ∧
      ((∀ i : Fin 4, classify s.inputs.rowIn[i] ≠ none) →
        (∀ i j : Fin 4, i < j → classify s.inputs.rowIn[i] ≠ classify s.inputs.rowIn[j]) →
        t.res.status = 0b000#3))

/-- R48: a result does not depend on an input its operation ignores. -/
def Obligations.IgnoredInputsDoNotMatter : Prop :=
  ∀ s s' t t' : State,
    (∀ r, rowData s.inputs.rowIn[0] = rowData s'.inputs.rowIn[0] →
      exec (genOf r) s = .next t → exec (genOf r) s' = .next t' → t.res = t'.res) ∧
    (∀ r, s.inputs.rowIn[0] = s'.inputs.rowIn[0] →
      exec (chkOf r) s = .next t → exec (chkOf r) s' = .next t' → t.res = t'.res) ∧
    (∀ role role', s.inputs.rowIn[0] = s'.inputs.rowIn[0] →
      exec (.cls role) s = .next t → exec (.cls role') s' = .next t' → t.res = t'.res) ∧
    (∀ role role', s.inputs.rowIn = s'.inputs.rowIn →
      exec (.sync role) s = .next t → exec (.sync role') s' = .next t' → t.res = t'.res)

/-- R21: two requests with the same command word and row inputs leave the same result, whatever was
in the registers before. -/
def Obligations.ResultIndependentOfEarlierRequests : Prop :=
  ∀ s s' t t' : State, s.inputs.Accepted → s'.inputs.Accepted →
    s.inputs.cmd = s'.inputs.cmd → s.inputs.rowIn = s'.inputs.rowIn →
    step s = .next t → step s' = .next t' → t.res = t'.res ∧ t.rspValid = t'.rspValid

/-! ### Encodings and codes -/

/-- R49: of the 32 command words exactly six are illegal; every word decodes as the map of R49 says;
and an illegal word presented as a request completes with `ILLEGAL_ROLE`. -/
def Obligations.CommandWordMap : Prop :=
  (∀ c : CmdWord,
    decode c ∈ illegalInstrs ↔
      (opField c = 0b00#2 ∨ opField c = 0b01#2) ∧
        (roleField c = 0b101#3 ∨ roleField c = 0b110#3 ∨ roleField c = 0b111#3)) ∧
  (∀ r : Role,
    decode (roleCode r ++ 0b00#2) = genOf r ∧ decode (roleCode r ++ 0b01#2) = chkOf r) ∧
  (∀ role : RoleCode,
    decode (role ++ 0b10#2) = .cls role ∧ decode (role ++ 0b11#2) = .sync role) ∧
  (∀ s : State, s.inputs.Accepted → decode s.inputs.cmd ∈ illegalInstrs →
    ∃ t, step s = .next t ∧ t.rspValid = true ∧
      t.res = { Result.empty with status := 0b011#3 } ∧ t.upcoming = s.upcoming.tail)

/-- Nine words of the opcode table, of every operation and both kinds of illegal word, written out bit by
bit, decode to their instructions. That `CMD` stands in the low bits of a request's number, and the
rows' bits above it, is the model's choice (log 5); the bits of `CMD` are R43's. -/
def Obligations.TableWordsDecode : Prop :=
  decodeTableWord 8 0b00000 = some .genA ∧ decodeTableWord 8 0b01100 = some .genD ∧
  decodeTableWord 8 0b00101 = some .chkB ∧ decodeTableWord 8 0b10001 = some .chkE ∧
  decodeTableWord 8 0b00010 = some (.cls 0b000#3) ∧
  decodeTableWord 8 0b11110 = some (.cls 0b111#3) ∧
  decodeTableWord 8 0b00111 = some (.sync 0b001#3) ∧
  decodeTableWord 8 0b10100 = some .illegalGen101 ∧ decodeTableWord 8 0b11101 = some .illegalChk111

/-- Decode and encode agree on whole requests, in both directions: an instruction with its four rows
is read back from its request word, and every one of the 2^109 request words is the encoding of what
it decodes to. The places of the rows in the word are the model's choice (log 5); those of `OP` and
`ROLE` in the command word are R43's. -/
def Obligations.RequestRoundTrip : Prop :=
  (∀ (i : Instr) (w : Rows), i.wf = true → decodeRequest (encodeRequest i w) = (i, w)) ∧
  (∀ q : RequestWord, encodeRequest (decodeRequest q).1 (decodeRequest q).2 = q)

/-- R27, R29: the offset ROM answers its five words at codes 0b000 to 0b100, and codes 0b101 to 0b111
address no entry (the model's read faults there, log 7). -/
def Obligations.OffsetRomHoldsFiveWords : Prop :=
  (∀ r : Role, memReadOffsetRom (roleCode r) = .ok (offsetRom r)) ∧
  (∀ c : RoleCode, (∃ v, memReadOffsetRom c = .ok v) ↔ c.toNat ≤ 4) ∧
  (∀ c : RoleCode, c.toNat > 4 → memReadOffsetRom c = .error (.noOffsetEntry c)) ∧
  (∀ r r' : Role, offsetRom r = offsetRom r' → r = r')

/-- R33: the serial string of a row starts with bit 25 and ends with bit 0, and a row is read back from
its string; a string of another length is no row. -/
def Obligations.SerialRowRoundTrip : Prop :=
  (∀ w : Row, (rowToSerial w).length = 26 ∧
    ∀ k : Fin 26, (rowToSerial w)[k.val]? = some (w.getLsbD (25 - k.val))) ∧
  (∀ w : Row, rowOfSerial? (rowToSerial w) = some w) ∧
  (∀ (cs : List Bool) (w : Row), rowOfSerial? cs = some w → rowToSerial w = cs)

/-- R51, R52: the edges of each assembler line. -/
def Obligations.AssemblerLinesBecomeEdges : Prop :=
  (∀ r d, ∃ e, assembleLine (.gen r d) = [e] ∧ e.Accepted ∧ decode e.cmd = genOf r ∧
    e.rowIn = #v[d ++ 0#10, 0#26, 0#26, 0#26]) ∧
  (∀ r d c, ∃ e, assembleLine (.chk r d c) = [e] ∧ e.Accepted ∧ decode e.cmd = chkOf r ∧
    e.rowIn = #v[d ++ c, 0#26, 0#26, 0#26]) ∧
  (∀ d c, ∃ e, assembleLine (.cls d c) = [e] ∧ e.Accepted ∧ decode e.cmd = .cls 0#3 ∧
    e.rowIn = #v[d ++ c, 0#26, 0#26, 0#26]) ∧
  (∀ a b c d, ∃ e, assembleLine (.sync a b c d) = [e] ∧ e.Accepted ∧ decode e.cmd = .sync 0#3 ∧
    e.rowIn = #v[a, b, c, d]) ∧
  (∀ x a b c d, ∃ e, assembleLine (.req x a b c d) = [e] ∧ e.Accepted ∧ e.cmd = x ∧
    e.rowIn = #v[a, b, c, d]) ∧
  (∃ e, assembleLine .nop = [e] ∧ e.Idle) ∧
  (∃ e, assembleLine .reset = [e] ∧ e.rst = true) ∧
  (∀ n, (assembleLine (.wait n)).length = n ∧ ∀ e ∈ assembleLine (.wait n), e.Idle)

/-! ### The CRC -/

/-- R53: the division clears bits 25 to 10 of the scratch value, and the raw remainder is
`(d(x) · x^10) mod g(x)` over GF(2). -/
def Obligations.RawIsPolynomialRemainder : Prop :=
  ∀ d : Data,
    (divide d).extractLsb' 10 16 = 0#16 ∧
    bitsPoly (raw d) = (bitsPoly d * Polynomial.X ^ 10) %ₘ bitsPoly genPoly

/-- R54: the parity table and the XOR network, per output bit, both give `Raw` for every data word. -/
def Obligations.ParityNetworkComputesRaw : Prop :=
  (∀ i : Fin 16, parityTable[i.val]? = some (raw (1#16 <<< i.val))) ∧
  (∀ d : Data, rawParity d = raw d) ∧
  (∀ (d : Data) (k : Fin 10), ∃ ps,
    networkTaps[k.val]? = some ps ∧ (raw d).getLsbD k.val = xorBits d ps)

/-- R56: the laws of `Raw` and `Cw`. The words with remainder 0 are the 64 multiples of g(x) of degree
at most 15. -/
def Obligations.CheckwordLaws : Prop :=
  raw 0#16 = 0#10 ∧ (∀ r, checkword 0#16 r = offsetRom r) ∧
  (∀ a b : Data, raw (a ^^^ b) = raw a ^^^ raw b) ∧
  (∀ (a b : Data) (r : Role), checkword (a ^^^ b) r = checkword a r ^^^ raw b) ∧
  (∀ d : Data, checkword d .E = raw d) ∧
  (∀ d : Data, raw d = 0#10 ↔ ∃ q : BitVec 6, d = genMultiple q) ∧
  Function.Injective genMultiple ∧ genMultiple 0#6 = 0x0000#16 ∧ genMultiple 1#6 = 0x05B9#16

/-- R57: the acceptance test holds exactly when the syndrome equals the offset word, and CHK's `MATCH`
says so. -/
def Obligations.AcceptanceIsSyndromeEquality : Prop :=
  (∀ (w : Row) (r : Role),
    checkword (rowData w) r = rowCheckword w ↔ syndrome w = offsetRom r) ∧
  (∀ (s t : State) (r : Role), exec (chkOf r) s = .next t →
    (t.res.matched = true ↔ syndrome s.inputs.rowIn[0] = offsetRom r))

/-- R58: at most one of CHK.A to CHK.E answers `MATCH = 1` for a row, and a row of syndrome 0 matches
role E and no other. -/
def Obligations.RowMatchesAtMostOneRole : Prop :=
  ∀ (s t t' : State) (r r' : Role),
    exec (chkOf r) s = .next t → exec (chkOf r') s = .next t' →
      (t.res.matched = true → t'.res.matched = true → r = r') ∧
      (syndrome s.inputs.rowIn[0] = 0#10 → (t.res.matched = true ↔ r = .E))

/-- R59: flipping one bit of a row changes its syndrome by `S[k] = (x^k) mod g(x)`, the value of the
table, which is not 0; so the row no longer matches the role it matched. Bit 18 turns a C row into a
D row and the reverse; every other flip of a row that matches a role leaves it matching none. -/
def Obligations.SingleBitFlipMovesSyndrome : Prop :=
  ∀ (w : Row) (k : Fin 26),
    syndrome (flipBit w k) = syndrome w ^^^ flipSyndrome[k] ∧
    bitsPoly flipSyndrome[k] = Polynomial.X ^ k.val %ₘ bitsPoly genPoly ∧
    flipSyndrome[k] ≠ 0#10 ∧
    (∀ r, matchesRole w r = true → matchesRole (flipBit w k) r = false) ∧
    (k = 18 → matchesRole w .C = true → matchesRole (flipBit w k) .D = true) ∧
    (k = 18 → matchesRole w .D = true → matchesRole (flipBit w k) .C = true) ∧
    (∀ r r', matchesRole w r = true → matchesRole (flipBit w k) r' = true →
      k = 18 ∧ ((r = .C ∧ r' = .D) ∨ (r = .D ∧ r' = .C)))

/-- A checkword made by GEN is accepted by CHK for that role only, and CLS names that role, for each of
A to D (R60, R61, R67 and R73's first clause, over two requests). -/
def Obligations.GeneratedRowIsRecognised : Prop :=
  ∀ (s t s' t' : State) (r r' : Role) (role : RoleCode),
    exec (genOf r) s = .next t →
    s'.inputs.rowIn[0] = mkRow (rowData s.inputs.rowIn[0]) t.res.cwOut →
      (exec (chkOf r') s' = .next t' → (t'.res.matched = true ↔ r' = r)) ∧
      (exec (.cls role) s' = .next t' → r ≠ .E →
        t'.res.matched = true ∧ t'.res.roleOut = t.res.roleOut ∧ t'.res.cwOut = offsetRom r) ∧
      (exec (.cls role) s' = .next t' → r = .E →
        t'.res.status = 0b001#3 ∧ t'.res.roleOut = 0b111#3)

/-! ### The synchronizer -/

/-- R66, R65: `Classify(w)` is the one role of A to D whose offset word is the syndrome, and `NONE`
where there is none, as for a row that matches only E. -/
def Obligations.ClassifyFindsTheMatchingRole : Prop :=
  ∀ w : Row,
    (∀ r : Role, classify w = some r ↔ r ≠ .E ∧ syndrome w = offsetRom r) ∧
    (classify w = none ↔ ∀ r : Role, r ≠ .E → checkword (rowData w) r ≠ rowCheckword w) ∧
    (checkword (rowData w) .E = rowCheckword w → classify w = none)

/-- R70: SYNC succeeds exactly when the rows' roles are {A, B, C, D}; on success the assignment is a
bijection, and `GROUP_OUT[k]` is the one input row with `ROW_ROLE = k`. -/
def Obligations.SyncSuccessIsBijection : Prop :=
  ∀ (role : RoleCode) (s t : State), exec (.sync role) s = .next t →
    (t.res.status = 0b000#3 ↔
      ({c | ∃ i : Fin 4, classify s.inputs.rowIn[i] = c} : Set (Option Role)) =
        {some .A, some .B, some .C, some .D}) ∧
    (t.res.status = 0b000#3 → ∃ π : Equiv.Perm (Fin 4),
      ∀ i : Fin 4, t.res.rowRole[i] = BitVec.ofNat 3 (π i) ∧
        t.res.groupOut[π i] = s.inputs.rowIn[i])

/-- R71: first match without backtracking does what any assignment strategy can. SYNC succeeds exactly
when some injective assignment of roles A to D to the rows gives every row a role it matches, and
then that assignment is the one in `ROW_ROLE`. -/
def Obligations.SyncIsOptimalAssignment : Prop :=
  ∀ (role : RoleCode) (s t : State), exec (.sync role) s = .next t →
    (t.res.matched = true ↔
      ∃ f : Fin 4 → Role, Function.Injective f ∧
        ∀ i, f i ≠ .E ∧ checkword (rowData s.inputs.rowIn[i]) (f i) =
          rowCheckword s.inputs.rowIn[i]) ∧
    (∀ f : Fin 4 → Role, Function.Injective f →
      (∀ i, f i ≠ .E ∧ checkword (rowData s.inputs.rowIn[i]) (f i) =
        rowCheckword s.inputs.rowIn[i]) →
      ∀ i, t.res.rowRole[i] = roleCode (f i))

/-- R72: SYNC of the rows in another order gives the same `STATUS`, `MATCH` and `GROUP_OUT`; on success
`ROW_ROLE` is permuted with the rows. On failure `ERR_ROW`, and `ERR_ROLE`, may differ: there are
groups for which they do. -/
def Obligations.SyncIgnoresRowOrder : Prop :=
  (∀ (π : Equiv.Perm (Fin 4)) (role role' : RoleCode) (s s' t t' : State),
    (∀ i : Fin 4, s'.inputs.rowIn[i] = s.inputs.rowIn[π i]) →
    exec (.sync role) s = .next t → exec (.sync role') s' = .next t' →
      t'.res.status = t.res.status ∧ t'.res.matched = t.res.matched ∧
      t'.res.groupOut = t.res.groupOut ∧
      (t.res.status = 0b000#3 → ∀ i : Fin 4, t'.res.rowRole[i] = t.res.rowRole[π i])) ∧
  (∃ (π : Equiv.Perm (Fin 4)) (role : RoleCode) (s s' t t' : State),
    (∀ i : Fin 4, s'.inputs.rowIn[i] = s.inputs.rowIn[π i]) ∧
    exec (.sync role) s = .next t ∧ exec (.sync role) s' = .next t' ∧
    t.res.status = 0b001#3 ∧ t'.res.errRow ≠ t.res.errRow) ∧
  (∃ (π : Equiv.Perm (Fin 4)) (role : RoleCode) (s s' t t' : State),
    (∀ i : Fin 4, s'.inputs.rowIn[i] = s.inputs.rowIn[π i]) ∧
    exec (.sync role) s = .next t ∧ exec (.sync role) s' = .next t' ∧
    t.res.status = 0b010#3 ∧ t'.res.errRole ≠ t.res.errRole)

/-- R73: a row made with the checkword of a role A to D is classified as that role and as nothing else.
In a group that synchronizes, flipping any one bit of one row gives `NO_MATCH` at that row, except
bit 18 of the C row or of the D row, which gives `DUPLICATE_ROLE` with role D or C; no flip lets the
group synchronize. -/
def Obligations.SyncRejectsSingleBitError : Prop :=
  (∀ (d : Data) (r r' : Role), r ≠ .E →
    (classify (mkRow d (checkword d r)) = some r' ↔ r' = r)) ∧
  (∀ (role role' : RoleCode) (s s' t t' : State) (i : Fin 4) (k : Fin 26),
    exec (.sync role) s = .next t → t.res.status = 0b000#3 →
    s'.inputs.rowIn[i] = flipBit s.inputs.rowIn[i] k →
    (∀ j : Fin 4, j ≠ i → s'.inputs.rowIn[j] = s.inputs.rowIn[j]) →
    exec (.sync role') s' = .next t' →
      (k = 18 → classify s.inputs.rowIn[i] = some .C →
        t'.res.status = 0b010#3 ∧ t'.res.errRole = 0b011#3) ∧
      (k = 18 → classify s.inputs.rowIn[i] = some .D →
        t'.res.status = 0b010#3 ∧ t'.res.errRole = 0b010#3) ∧
      (¬ (k = 18 ∧
          (classify s.inputs.rowIn[i] = some .C ∨ classify s.inputs.rowIn[i] = some .D)) →
        t'.res.status = 0b001#3 ∧ t'.res.errRow = BitVec.ofNat 2 i) ∧
      t'.res.status ≠ 0b000#3 ∧ t'.res.matched = false)

/-- R74: the synchronizer never changes a row. On success `GROUP_OUT` holds the input rows, bit for
bit, in some order. -/
def Obligations.SyncKeepsEveryRow : Prop :=
  ∀ (role : RoleCode) (s t : State), exec (.sync role) s = .next t → t.res.matched = true →
    t.res.groupOut.toList.Perm s.inputs.rowIn.toList

/-! ### Invariants and whole runs -/

/-- The reset state is coherent. -/
def Obligations.ResetStateIsCoherent : Prop := State.reset.Coherent

/-- Every step keeps the state coherent: the codes shown are ones the spec allows (R44, R46), the
record is one that reset or the rule of some request produces (`RequestRecordsAreExact`), and
`RSP_VALID` never stands beside the record of reset (R19, R95). -/
def Obligations.StepKeepsCoherent : Prop :=
  ∀ s t : State, s.Coherent → step s = .next t → t.Coherent

/-- R94, R25: from any state at all, power-up's free values included, one reset edge or one accepted
request makes the state coherent, and the record is the one the same edge leaves after a reset. -/
def Obligations.FirstEffectiveEdgeMakesCoherent : Prop :=
  ∀ (s t u : State) (e : Inputs), e.Effective →
    step { s with upcoming := e :: s.upcoming } = .next t →
    step { State.reset with upcoming := [e] } = .next u →
      t.Coherent ∧ t.res = u.res ∧ t.rspValid = u.rspValid

/-- 93 U5, U6: in a coherent state the host's reading of the codes meets no reserved one; a reserved
code, which only a state before the first effective edge can hold, is a fault of the reader (the
model's choice, log 6). -/
def Obligations.CoherentResultIsReadable : Prop :=
  (∀ s : State, s.Coherent →
    (∃ n, statusName s.res.status = .ok n) ∧ (∃ r, shownRole s.res.roleOut = .ok r) ∧
    (∃ r, shownRole s.res.errRole = .ok r) ∧
    ∀ i : Fin 4, ∃ r, shownRole s.res.rowRole[i] = .ok r) ∧
  (∀ c : StatusCode, statusCodeShown c = false → statusName c = .error (.reservedStatus c)) ∧
  (∀ c : RoleCode, roleCodeShown c = false → shownRole c = .error (.reservedRole c))

/-- R95: after a reset edge, and through any number of edges at which no request is accepted, `STATUS`
reads `NONE`; no completed request writes it. -/
def Obligations.StatusNoneUntilFirstRequest : Prop :=
  (∀ (es : List Inputs) (s t : State), s.res = Result.resetValues →
    (∀ e ∈ es, ¬ e.Accepted) →
    Sys2Proof.core.run es.length { s with upcoming := es ++ s.upcoming } = .next t →
      t.res.status = 0b111#3) ∧
  (∀ (i : Instr) (s t : State), exec i s = .next t → t.res.status ≠ 0b111#3)

/-- R97: `Res` holds the result of an accepted request through any number of idle edges, and
`RSP_VALID` is 1 in the first period after it and 0 in every later one. -/
def Obligations.ResultHeldThroughIdleEdges : Prop :=
  ∀ (e : Inputs) (es : List Inputs) (s t u : State), e.Accepted → (∀ x ∈ es, x.Idle) →
    step { s with upcoming := e :: (es ++ s.upcoming) } = .next u →
    Sys2Proof.core.run (es.length + 1) { s with upcoming := e :: (es ++ s.upcoming) } = .next t →
      t.res = u.res ∧ (t.rspValid = true ↔ es = [])

/-- R38, R21: requests take effect in the order of their edges and leave no trace beyond the next one.
Two runs that end in the same reset edge or request, followed by idle edges, end with the same `Res`
and `RSP_VALID`, whatever their states and inputs were before. -/
def Obligations.RunForgetsBeforeLastEffectiveEdge : Prop :=
  ∀ (s s' t t' : State) (past past' idles : List Inputs) (e : Inputs),
    e.Effective → (∀ x ∈ idles, x.Idle) →
    Sys2Proof.core.run (past ++ e :: idles).length { s with upcoming := past ++ e :: idles } =
      .next t →
    Sys2Proof.core.run (past' ++ e :: idles).length { s' with upcoming := past' ++ e :: idles } =
      .next t' →
      t.res = t'.res ∧ t.rspValid = t'.rspValid

/-! ### The serial form of a group, and which records requests write -/

/-- R33: in a group's serial string the row that comes first is `ROW_IN0` of the SYNC request that receives
the group, and each row's first character is its bit 25 and its 26th its bit 0. A string is read as a
group exactly when it is a group's string. -/
def Obligations.SerialGroupBecomesSyncRequest : Prop :=
  (∀ w : Rows,
    (groupToSerial w).length = 104 ∧
    (∀ i : Fin 4, ∀ k : Fin 26,
      (groupToSerial w)[26 * i.val + k.val]? = some (w[i].getLsbD (25 - k.val))) ∧
    ∃ l e role, lineOfSerialGroup? (groupToSerial w) = some l ∧ assembleLine l = [e] ∧
      e.Accepted ∧ decode e.cmd = .sync role ∧ ∀ i : Fin 4, e.rowIn[i] = w[i]) ∧
  (∀ w : Rows, groupOfSerial? (groupToSerial w) = some w) ∧
  (∀ (cs : List Bool) (w : Rows), groupOfSerial? cs = some w → groupToSerial w = cs)

/-- R18 with R60, R61, R67 to R69 and R77: the records that `FromRequest` describes are exactly those that
some request leaves in `Res`, from some state. -/
def Obligations.RequestRecordsAreExact : Prop :=
  ∀ r : Result, r.FromRequest ↔ ∃ (i : Instr) (s t : State), exec i s = .next t ∧ t.res = r
end

