-- ==== Sys2Proof/Laws/State.lean ====
section
/-! SUPPORT. One lemma per field of the one state update, `State.afterEdge`, and what the coming edge
samples. -/

namespace Sys2Proof.Machine

@[simp] theorem State.afterEdge_rspValid (s : State) (valid : Bool) (r : Result) :
    (s.afterEdge valid r).rspValid = valid := rfl

@[simp] theorem State.afterEdge_res (s : State) (valid : Bool) (r : Result) :
    (s.afterEdge valid r).res = r := rfl

@[simp] theorem State.afterEdge_upcoming (s : State) (valid : Bool) (r : Result) :
    (s.afterEdge valid r).upcoming = s.upcoming.tail := rfl

@[simp] theorem State.afterEdge_edgeNo (s : State) (valid : Bool) (r : Result) :
    (s.afterEdge valid r).edgeNo = s.edgeNo + 1 := rfl

/-- The coming edge samples the first placed inputs. -/
theorem State.inputs_of_upcoming {s : State} {e : Inputs} {es : List Inputs}
    (h : s.upcoming = e :: es) : s.inputs = e := by
  simp [State.inputs, h]

/-- With nothing placed the coming edge samples free values (log 2). -/
theorem State.inputs_of_nothing_placed {s : State} (h : s.upcoming = []) :
    s.inputs = freeInputs s.edgeNo := by
  simp [State.inputs, h]

end Sys2Proof.Machine
end

