-- ==== Sys2Proof/Laws/Ops.lean ====
section
/-! SUPPORT. What the shared operations do: one lemma per operation. -/

namespace Sys2Proof.Machine

/-- All that completing a request does. -/
@[simp] theorem complete_eq_next_iff {r : Result} {s t : State} :
    complete r s = .next t ↔ t = s.afterEdge true r := by
  simp [complete, eq_comm]

/-- All that a reset edge does. -/
@[simp] theorem resetEdge_eq_next_iff {s t : State} :
    resetEdge s = .next t ↔ t = s.afterEdge false Result.resetValues := by
  simp [resetEdge, eq_comm]

/-- All that an idle edge does. -/
@[simp] theorem idleEdge_eq_next_iff {s t : State} :
    idleEdge s = .next t ↔ t = s.afterEdge false s.res := by
  simp [idleEdge, eq_comm]

@[simp] theorem raiseError_status (code : StatusCode) (r : Result) :
    (raiseError code r).status = code := rfl

@[simp] theorem raiseError_matched (code : StatusCode) (r : Result) :
    (raiseError code r).matched = false := rfl

@[simp] theorem roleOfCode?_roleCode (r : Role) : roleOfCode? (roleCode r) = some r := by
  cases r <;> decide

theorem roleCode_injective : Function.Injective roleCode := by
  intro a b
  cases a <;> cases b <;> decide

theorem offsetRom_injective : Function.Injective offsetRom := by
  intro a b
  cases a <;> cases b <;> decide

/-- Every vector of four is written out by its four elements. -/
theorem vector_four_eta {α : Type} (v : Vector α 4) : v = #v[v[0], v[1], v[2], v[3]] := by
  ext i hi
  interval_cases i <;> rfl

/-- `lowestSet` answers the lowest index that is set. -/
theorem lowestSet_eq_some_iff {v : Vector Bool 4} {i : Fin 4} :
    lowestSet v = some i ↔ v[i] = true ∧ ∀ j : Fin 4, j < i → v[j] = false := by
  rw [vector_four_eta v]
  generalize v[0] = a
  generalize v[1] = b
  generalize v[2] = c
  generalize v[3] = d
  revert a b c d i
  decide

/-- `lowestSet` answers nothing exactly when no index is set. -/
theorem lowestSet_eq_none_iff {v : Vector Bool 4} :
    lowestSet v = none ↔ ∀ i : Fin 4, v[i] = false := by
  rw [vector_four_eta v]
  generalize v[0] = a
  generalize v[1] = b
  generalize v[2] = c
  generalize v[3] = d
  revert a b c d
  decide

end Sys2Proof.Machine
end

