-- ==== Sys2Proof/Laws/CrcEngine.lean ====
section
/-! SUPPORT. Rows and their fields, and the linearity of the CRC division over GF(2). -/

namespace Sys2Proof.Machine

theorem getLsbD_mkRow (d : Data) (c : Checkword) (i : Nat) :
    (mkRow d c).getLsbD i = if i < 10 then c.getLsbD i else d.getLsbD (i - 10) :=
  BitVec.getLsbD_append.trans (by split <;> simp_all)

@[simp] theorem rowData_mkRow (d : Data) (c : Checkword) : rowData (mkRow d c) = d := by
  apply BitVec.eq_of_getLsbD_eq
  intro i hi
  rw [rowData, BitVec.getLsbD_extractLsb', getLsbD_mkRow, if_neg (by omega)]
  simp [hi]

@[simp] theorem rowCheckword_mkRow (d : Data) (c : Checkword) :
    rowCheckword (mkRow d c) = c := by
  apply BitVec.eq_of_getLsbD_eq
  intro i hi
  rw [rowCheckword, BitVec.getLsbD_extractLsb', getLsbD_mkRow, if_pos (by omega)]
  simp [hi]

theorem rowData_xor (a b : Row) : rowData (a ^^^ b) = rowData a ^^^ rowData b :=
  BitVec.extractLsb'_xor ..

theorem rowCheckword_xor (a b : Row) :
    rowCheckword (a ^^^ b) = rowCheckword a ^^^ rowCheckword b :=
  BitVec.extractLsb'_xor ..

/-- One pass of the division is additive over GF(2). -/
theorem divStep_xor (v u : BitVec 26) (b : Nat) :
    divStep (v ^^^ u) b = divStep v b ^^^ divStep u b := by
  unfold divStep
  rw [BitVec.getLsbD_xor]
  cases v.getLsbD b <;> cases u.getLsbD b <;> simp
  · ac_rfl
  · ac_rfl
  · rw [BitVec.xor_assoc, BitVec.xor_comm u, ← BitVec.xor_assoc _ _ u, BitVec.xor_self,
      BitVec.zero_xor]

theorem foldl_divStep_xor (bs : List Nat) (v u : BitVec 26) :
    bs.foldl divStep (v ^^^ u) = bs.foldl divStep v ^^^ bs.foldl divStep u := by
  induction bs generalizing v u with
  | nil => rfl
  | cons b bs ih => simp [divStep_xor, ih]

theorem divide_xor (a b : Data) : divide (a ^^^ b) = divide a ^^^ divide b := by
  unfold divide
  rw [BitVec.setWidth_xor, BitVec.shiftLeft_xor_distrib, foldl_divStep_xor]

theorem raw_xor (a b : Data) : raw (a ^^^ b) = raw a ^^^ raw b := by
  unfold raw
  rw [divide_xor, BitVec.extractLsb'_xor]

/-- A sum of constants selected by the bits of a word is additive over GF(2). -/
theorem foldl_xorIf_xor {n m : Nat} (ps : List (BitVec m × Nat)) (a b : BitVec n)
    (x y : BitVec m) :
    ps.foldl (fun z p => if (a ^^^ b).getLsbD p.2 then z ^^^ p.1 else z) (x ^^^ y) =
      ps.foldl (fun z p => if a.getLsbD p.2 then z ^^^ p.1 else z) x ^^^
        ps.foldl (fun z p => if b.getLsbD p.2 then z ^^^ p.1 else z) y := by
  induction ps generalizing x y with
  | nil => rfl
  | cons p ps ih =>
    simp only [List.foldl_cons]
    rw [← ih]
    refine congrArg (fun z => List.foldl _ z ps) ?_
    rw [BitVec.getLsbD_xor]
    cases a.getLsbD p.2 <;> cases b.getLsbD p.2 <;> simp
    · ac_rfl
    · ac_rfl
    · rw [BitVec.xor_assoc, BitVec.xor_comm p.1, BitVec.xor_assoc y, BitVec.xor_self,
        BitVec.xor_zero]

/-- Two maps that are additive over GF(2) and agree on every single bit agree everywhere. -/
theorem xorAdditive_ext {n m : Nat} {f g : BitVec n → BitVec m}
    (hf : ∀ a b, f (a ^^^ b) = f a ^^^ f b) (hg : ∀ a b, g (a ^^^ b) = g a ^^^ g b)
    (h : ∀ i < n, f (1#n <<< i) = g (1#n <<< i)) (d : BitVec n) : f d = g d := by
  have zero : ∀ {f : BitVec n → BitVec m}, (∀ a b, f (a ^^^ b) = f a ^^^ f b) → f 0#n = 0#m := by
    intro f hf
    simpa using hf 0#n 0#n
  have main : ∀ k ≤ n, ∀ d : BitVec n, (∀ i, k ≤ i → d.getLsbD i = false) → f d = g d := by
    intro k
    induction k with
    | zero =>
      intro _ d hd
      have hz : d = 0#n := BitVec.eq_of_getLsbD_eq fun i _ => by simp [hd i]
      rw [hz, zero hf, zero hg]
    | succ k ih =>
      intro hk d hd
      cases hb : d.getLsbD k with
      | false =>
        refine ih (by omega) d fun i hi => ?_
        rcases Nat.eq_or_lt_of_le hi with rfl | hlt
        · exact hb
        · exact hd i hlt
      | true =>
        have hd' : ∀ i, k ≤ i → (d ^^^ (1#n <<< k)).getLsbD i = false := by
          intro i hi
          rw [BitVec.getLsbD_xor, BitVec.getLsbD_shiftLeft]
          rcases Nat.eq_or_lt_of_le hi with rfl | hlt
          · simp [hb]
            omega
          · simp [hd i hlt]
            omega
        have e : d = (d ^^^ (1#n <<< k)) ^^^ (1#n <<< k) := by
          rw [BitVec.xor_assoc]
          simp
        rw [e, hf, hg, ih (by omega) _ hd', h k (by omega)]
  exact main n (Nat.le_refl n) d fun i hi => BitVec.getLsbD_of_ge d i hi

theorem syndrome_xor (a b : Row) : syndrome (a ^^^ b) = syndrome a ^^^ syndrome b := by
  simp only [syndrome, rowData_xor, rowCheckword_xor, raw_xor]
  ac_rfl

/-- A row matches a role exactly when its syndrome is the role's offset word. -/
theorem matchesRole_iff {w : Row} {r : Role} :
    matchesRole w r = true ↔ syndrome w = offsetRom r := by
  simp only [matchesRole, chkMatch, checkword, syndrome, beq_iff_eq]
  constructor
  · intro h
    rw [← h, BitVec.xor_comm, ← BitVec.xor_assoc]
    simp
  · intro h
    rw [← h, BitVec.xor_comm, BitVec.xor_assoc]
    simp

end Sys2Proof.Machine
end

