-- ==== Sys2Proof/Laws/PerInstr.lean ====
section
/-! SUPPORT. Per-instruction laws about the syntax and the encodings. -/

namespace Sys2Proof.Laws.RoundTrip

/-- The command word of the instruction decodes to it again. -/
def Statement (i : Instr) : Prop := i.wf = true ∧ decode (encode i) = i

theorem genA : Statement .genA := by unfold Statement; decide
theorem genB : Statement .genB := by unfold Statement; decide
theorem genC : Statement .genC := by unfold Statement; decide
theorem genD : Statement .genD := by unfold Statement; decide
theorem genE : Statement .genE := by unfold Statement; decide
theorem chkA : Statement .chkA := by unfold Statement; decide
theorem chkB : Statement .chkB := by unfold Statement; decide
theorem chkC : Statement .chkC := by unfold Statement; decide
theorem chkD : Statement .chkD := by unfold Statement; decide
theorem chkE : Statement .chkE := by unfold Statement; decide
theorem cls (role : RoleCode) : Statement (.cls role) := by
  unfold Statement
  revert role
  decide
theorem sync (role : RoleCode) : Statement (.sync role) := by
  unfold Statement
  revert role
  decide
theorem illegalGen101 : Statement .illegalGen101 := by unfold Statement; decide
theorem illegalGen110 : Statement .illegalGen110 := by unfold Statement; decide
theorem illegalGen111 : Statement .illegalGen111 := by unfold Statement; decide
theorem illegalChk101 : Statement .illegalChk101 := by unfold Statement; decide
theorem illegalChk110 : Statement .illegalChk110 := by unfold Statement; decide
theorem illegalChk111 : Statement .illegalChk111 := by unfold Statement; decide

end Sys2Proof.Laws.RoundTrip
end

