-- ==== Sys2Proof/Laws/Synchronizer.lean ====
section
/-! SUPPORT. What `classify` and the scan of SYNC answer, said without their loops. -/

namespace Sys2Proof.Machine

theorem classify_eq_some_iff {w : Row} {r : Role} :
    classify w = some r ↔ r ≠ .E ∧ syndrome w = offsetRom r := by
  simp only [classify, trialOrder, List.find?_eq_some_iff_append]
  constructor
  · rintro ⟨h, as, bs, h2, -⟩
    refine ⟨?_, matchesRole_iff.1 h⟩
    rintro rfl
    have hE : Role.E ∈ [Role.A, .B, .C, .D] := h2 ▸ by simp
    simp at hE
  · rintro ⟨h, h2⟩
    have hn : ∀ x, x ≠ r → matchesRole w x = false := fun x hx => by
      rw [← Bool.not_eq_true, matchesRole_iff, h2]
      exact fun e => hx (offsetRom_injective e.symm)
    refine ⟨matchesRole_iff.2 h2, ?_⟩
    cases r with
    | A => exact ⟨[], _, rfl, by simp⟩
    | B => exact ⟨[.A], _, rfl, by simp [hn]⟩
    | C => exact ⟨[.A, .B], _, rfl, by simp [hn]⟩
    | D => exact ⟨[.A, .B, .C], _, rfl, by simp [hn]⟩
    | E => exact absurd rfl h

theorem classify_eq_none_iff {w : Row} :
    classify w = none ↔ ∀ r : Role, r ≠ .E → syndrome w ≠ offsetRom r := by
  constructor
  · intro h r hr e
    rw [classify_eq_some_iff.2 ⟨hr, e⟩] at h
    cases h
  · intro h
    rcases hc : classify w with _ | r
    · rfl
    · obtain ⟨a, b⟩ := classify_eq_some_iff.1 hc
      exact absurd b (h r a)

@[simp] theorem classifyRows_get (w : Rows) (i : Fin 4) :
    (classifyRows w)[i] = classify w[i] := by
  fin_cases i <;> rfl

@[simp] theorem rowRoles_get (asg : Vector (Option Role) 4) (i : Fin 4) :
    (rowRoles asg)[i] = roleOutCode asg[i] := by
  fin_cases i <;> rfl

/-- An earlier row classifies as row `i` does. -/
abbrev SharesRole (m : Vector (Option Role) 4) (i : Fin 4) : Prop :=
  ∃ j : Fin 4, j < i ∧ m[j] = m[i]

/-- What R68's scan holds after its first `n` rows. -/
structure SyncScan.After (m : Vector (Option Role) 4) (n : Nat) (a : SyncScan) : Prop where
  claimed : ∀ r, r ∈ a.claimed ↔ ∃ j : Fin 4, j.val < n ∧ m[j] = some r
  asg : ∀ i : Fin 4, a.asg[i] = if i.val < n ∧ ¬ SharesRole m i then m[i] else none
  noMatch : ∀ i : Fin 4, a.noMatch[i] = true ↔ i.val < n ∧ m[i] = none
  dup : ∀ i : Fin 4, a.dup[i] = true ↔ i.val < n ∧ m[i] ≠ none ∧ SharesRole m i

theorem SyncScan.start_after (m : Vector (Option Role) 4) : SyncScan.start.After m 0 where
  claimed r := by simp [SyncScan.start]
  asg i := by simp; fin_cases i <;> rfl
  noMatch i := by simp; fin_cases i <;> rfl
  dup i := by simp; fin_cases i <;> rfl

/-- Setting one of four elements. -/
theorem vector_set_get {α : Type} (v : Vector α 4) (k i : Fin 4) (x : α) :
    (v.set k x)[i] = if k = i then x else v[i] := by
  simp [Vector.getElem_set, Fin.ext_iff]

/-- One pass of the scan takes what holds after `k` rows to what holds after `k + 1`. -/
theorem SyncScan.visit_after {m : Vector (Option Role) 4} {a : SyncScan} {k : Fin 4}
    (h : a.After m k.val) : (a.visit k m[k]).After m (k.val + 1) := by
  have lt_succ : ∀ i : Fin 4, i.val < k.val + 1 ↔ i = k ∨ i.val < k.val := by omega
  cases hm : m[k] with
  | none =>
    constructor
    · intro r
      rw [visit, h.claimed]
      constructor
      · rintro ⟨j, hj, e⟩
        exact ⟨j, by omega, e⟩
      · rintro ⟨j, hj, e⟩
        rcases (lt_succ j).1 hj with rfl | hj
        · simp [hm] at e
        · exact ⟨j, hj, e⟩
    · intro i
      rw [visit, h.asg]
      rcases eq_or_ne i k with rfl | hi
      · simp [hm]
      · simp [lt_succ, hi]
    · intro i
      simp only [visit, vector_set_get]
      rcases eq_or_ne i k with rfl | hi
      · simp [hm]
      · rw [if_neg (Ne.symm hi), h.noMatch]
        simp [lt_succ, hi]
    · intro i
      rw [visit, h.dup]
      rcases eq_or_ne i k with rfl | hi
      · simp [hm]
      · simp [lt_succ, hi]
  | some r =>
    have hs : r ∈ a.claimed ↔ SharesRole m k := by
      rw [h.claimed]
      simp only [SharesRole, hm, Fin.lt_def]
    by_cases hc : r ∈ a.claimed
    · simp only [visit, hc, if_true]
      have hk := hs.1 hc
      constructor
      · intro x
        rw [h.claimed]
        constructor
        · rintro ⟨j, hj, e⟩
          exact ⟨j, by omega, e⟩
        · rintro ⟨j, hj, e⟩
          rcases (lt_succ j).1 hj with rfl | hj
          · rw [hm] at e
            cases e
            exact (h.claimed _).1 hc
          · exact ⟨j, hj, e⟩
      · intro i
        rw [h.asg]
        rcases eq_or_ne i k with rfl | hi
        · simp [hk]
        · simp [lt_succ, hi]
      · intro i
        rw [h.noMatch]
        rcases eq_or_ne i k with rfl | hi
        · simp [hm]
        · simp [lt_succ, hi]
      · intro i
        simp only [vector_set_get]
        rcases eq_or_ne i k with rfl | hi
        · simp [hm, hk]
        · rw [if_neg (Ne.symm hi), h.dup]
          simp [lt_succ, hi]
    · simp only [visit, hc, if_false]
      have hk : ¬ SharesRole m k := fun e => hc (hs.2 e)
      constructor
      · intro x
        rw [List.mem_cons, h.claimed]
        constructor
        · rintro (rfl | ⟨j, hj, e⟩)
          · exact ⟨k, by omega, hm⟩
          · exact ⟨j, by omega, e⟩
        · rintro ⟨j, hj, e⟩
          rcases (lt_succ j).1 hj with rfl | hj
          · rw [hm] at e
            cases e
            exact .inl rfl
          · exact .inr ⟨j, hj, e⟩
      · intro i
        simp only [vector_set_get]
        rcases eq_or_ne i k with rfl | hi
        · simp [hm, hk]
        · rw [if_neg (Ne.symm hi), h.asg]
          simp [lt_succ, hi]
      · intro i
        rw [h.noMatch]
        rcases eq_or_ne i k with rfl | hi
        · simp [hm]
        · simp [lt_succ, hi]
      · intro i
        rw [h.dup]
        rcases eq_or_ne i k with rfl | hi
        · simp [hk]
        · simp [lt_succ, hi]

theorem syncScan_after (m : Vector (Option Role) 4) : (syncScan m).After m 4 := by
  have h0 := SyncScan.visit_after (k := 0) (SyncScan.start_after m)
  have h1 := SyncScan.visit_after (k := 1) h0
  have h2 := SyncScan.visit_after (k := 2) h1
  exact SyncScan.visit_after (k := 3) h2

/-- A row keeps its role unless an earlier row has it. -/
theorem syncScan_asg (m : Vector (Option Role) 4) (i : Fin 4) :
    (syncScan m).asg[i] = if SharesRole m i then none else m[i] := by
  rw [(syncScan_after m).asg]
  by_cases h : SharesRole m i <;>
    simp only [h, i.isLt, true_and, not_true, not_false_iff, if_true, if_false]

theorem syncScan_noMatch (m : Vector (Option Role) 4) (i : Fin 4) :
    (syncScan m).noMatch[i] = true ↔ m[i] = none := by
  rw [(syncScan_after m).noMatch]
  simp

theorem syncScan_dup (m : Vector (Option Role) 4) (i : Fin 4) :
    (syncScan m).dup[i] = true ↔ m[i] ≠ none ∧ SharesRole m i := by
  rw [(syncScan_after m).dup]
  simp

/-- One pass of placing the rows writes the row at its role's position and nowhere else. -/
theorem placeRow_get (w : Rows) (asg : Vector (Option Role) 4) (g : Rows) (i k : Fin 4) :
    (placeRow w asg g i)[k] =
      if asg[i].map (fun r => (roleCode r).toNat) = some k.val then w[i] else g[k] := by
  unfold placeRow
  cases asg[i] with
  | none => simp
  | some r => simp [Vector.getElem_setIfInBounds]

end Sys2Proof.Machine
end

