-- ==== Sys2Proof/Laws/Step.lean ====
section
/-! SUPPORT. What a request, an edge and a run do, said once. -/

namespace Sys2Proof.Machine

/-- `Exec` as the pure function of R45: the record a request leaves, from its instruction and its row
operands alone. -/
def requestResult (i : Instr) (w : Rows) : Result :=
  match i with
  | .genA => genResult .A (rowData w[0])
  | .genB => genResult .B (rowData w[0])
  | .genC => genResult .C (rowData w[0])
  | .genD => genResult .D (rowData w[0])
  | .genE => genResult .E (rowData w[0])
  | .chkA => chkResult .A (rowData w[0]) (rowCheckword w[0])
  | .chkB => chkResult .B (rowData w[0]) (rowCheckword w[0])
  | .chkC => chkResult .C (rowData w[0]) (rowCheckword w[0])
  | .chkD => chkResult .D (rowData w[0]) (rowCheckword w[0])
  | .chkE => chkResult .E (rowData w[0]) (rowCheckword w[0])
  | .cls _ => clsResult w[0]
  | .sync _ => syncResult w
  | .illegalGen101 => raiseError statusIllegalRole Result.empty
  | .illegalGen110 => raiseError statusIllegalRole Result.empty
  | .illegalGen111 => raiseError statusIllegalRole Result.empty
  | .illegalChk101 => raiseError statusIllegalRole Result.empty
  | .illegalChk110 => raiseError statusIllegalRole Result.empty
  | .illegalChk111 => raiseError statusIllegalRole Result.empty

/-- All that an instruction does. -/
theorem exec_eq_complete (i : Instr) (s : State) :
    exec i s = complete (requestResult i s.inputs.rowIn) s := by
  cases i <;> rfl

/-- The record after an edge with inputs `e`, before it `r` (R23). -/
def edgeResult (e : Inputs) (r : Result) : Result :=
  if e.rst then Result.resetValues
  else if e.reqValid then requestResult (decode e.cmd) e.rowIn
  else r

/-- `RSP_VALID` after an edge with inputs `e` (R23). -/
def edgeValid (e : Inputs) : Bool := !e.rst && e.reqValid

/-- All that a step does. -/
theorem step_eq (s : State) :
    step s = .next (s.afterEdge (edgeValid s.inputs) (edgeResult s.inputs s.res)) := by
  unfold step edgeResult edgeValid
  cases s.inputs.rst <;> cases s.inputs.reqValid <;>
    simp [exec_eq_complete, resetEdge, idleEdge, complete]

theorem step_eq_next_iff {s t : State} :
    step s = .next t ↔ t = s.afterEdge (edgeValid s.inputs) (edgeResult s.inputs s.res) := by
  simp [step_eq, eq_comm]

/-- A run takes its first step and then runs on. -/
theorem run_succ (n : Nat) (s : State) :
    Sys2Proof.core.run (n + 1) s =
      Sys2Proof.core.run n (s.afterEdge (edgeValid s.inputs) (edgeResult s.inputs s.res)) := by
  have h : Sys2Proof.core.step s =
    .next (s.afterEdge (edgeValid s.inputs) (edgeResult s.inputs s.res)) := step_eq s
  simp [Host.Core.run, h]

end Sys2Proof.Machine
end

