-- ==== Sys2Proof/Tests/Slice0.lean ====
section
/-! SUPPORT. The model's own tests: the codes, the words of the encoding, one step of each instruction on
the vectors of spec/95_test_vectors.md, and a witness for the hypotheses of every statement. -/

namespace Sys2Proof.Tests

open Sys2Proof.Machine

/-- A state after reset with one request placed for the coming edge. -/
def placed (cmd : CmdWord) (w : Rows) : State :=
  { State.reset with upcoming := [requestInputs cmd w] }

/-- A state after reset with one single-row request placed. -/
def placedRow (cmd : CmdWord) (d : Data) (c : Checkword) : State :=
  placed cmd (singleRow (mkRow d c))

/-- A state after reset with the given edges placed. -/
def placedEdges (es : List Inputs) : State := { State.reset with upcoming := es }

/-- One field of the record after one step. -/
def after {α : Type} (f : Result → α) (s : State) : Option α :=
  match step s with
  | .next t => some (f t.res)
  | .fault _ => none
  | .refused _ => none

/-- `RSP_VALID` after one step. -/
def validAfter (s : State) : Option Bool :=
  match step s with
  | .next t => some t.rspValid
  | .fault _ => none
  | .refused _ => none

/-- The rows of V-E2 group 0: valid rows of A, B, C and D (95 V-S). -/
def rowA : Row := 0x0C0E79A#26
def rowB : Row := 0x012E0FD#26
def rowC : Row := 0x02069FF#26
def rowD : Row := 0x149046E#26

/-- `b1`: row B with bit 0 flipped. `c18`: row C with bit 18 flipped. (95 V-S) -/
def rowB1 : Row := 0x012E0FC#26
def rowC18 : Row := 0x02469FF#26

/-! ### Well-formedness: the checks of codes refuse what no rule allows (R44, R45, R46). Every term of
`Instr` is well-formed, so there is no ill-formed instruction to show. -/

theorem test_legal_role_refuses_101 : roleCodeLegal 0b101#3 = false := by decide
theorem test_shown_role_refuses_110 : roleCodeShown 0b110#3 = false := by decide
theorem test_shown_status_refuses_100 : statusCodeShown 0b100#3 = false := by decide
theorem test_request_refuses_110_bits :
    requestOfNat (2 ^ 109) = .error .widerThanRequest := by decide
theorem test_serial_refuses_short_row : rowOfSerial? [true, false] = none := by decide

/-! ### Decoding: each row of the table, its word written `CMD[4:2]` then `CMD[1:0]` (R43, R49) -/

theorem test_decode_gen :
    [0b00000#5, 0b00100#5, 0b01000#5, 0b01100#5, 0b10000#5].map decode =
      [.genA, .genB, .genC, .genD, .genE] := by decide
theorem test_decode_chk :
    [0b00001#5, 0b00101#5, 0b01001#5, 0b01101#5, 0b10001#5].map decode =
      [.chkA, .chkB, .chkC, .chkD, .chkE] := by decide
theorem test_decode_cls_sync :
    [0b00010#5, 0b11110#5, 0b00011#5, 0b10111#5].map decode =
      [.cls 0b000#3, .cls 0b111#3, .sync 0b000#3, .sync 0b101#3] := by decide
theorem test_decode_illegal :
    [0b10100#5, 0b11000#5, 0b11100#5, 0b10101#5, 0b11001#5, 0b11101#5].map decode =
      illegalInstrs := by decide

/-! ### The CRC (95 V-R) and the rows (95 V-E2) -/

theorem test_raw_vectors :
    [0x0000#16, 0x0001#16, 0x8000#16, 0xFFFF#16, 0x05B9#16, 0x1234#16, 0x3039#16].map raw =
      [0x000#10, 0x1B9#10, 0x077#10, 0x0CD#10, 0x000#10, 0x096#10, 0x366#10] := by
  decide +kernel
theorem test_raw_parity_all_ones : rawParity 0xFFFF#16 = 0x0CD#10 := by decide
theorem test_row_fields : mkRow 0x3039#16 0x39A#10 = rowA ∧ rowData rowA = 0x3039#16 := by decide

/-- 95 V-E2: the serial form 00110000001110011110011010 of row A. -/
theorem test_serial_row :
    rowToSerial rowA =
      [false, false, true, true, false, false, false, false, false, false, true, true, true, false,
       false, true, true, true, true, false, false, true, true, false, true, false] := by decide

/-- R33 on 95 V-E2: the string of group 0, row A first. -/
theorem test_serial_group :
    (lineOfSerialGroup? (("00110000001110011110011010" ++ "00000100101110000011111101" ++
      "00001000000110100111111111" ++ "01010010010000010001101110").toList.map (· == '1'))).map
        assembleLine = some [requestInputs 0b00011#5 #v[rowA, rowB, rowC, rowD]] := by
  decide +kernel

/-! ### GEN and CHK (95 V-G, V-C) -/

theorem test_genA_3039 :
    after (fun r => (r.cwOut, r.roleOut, r.status)) (placedRow 0b00000#5 0x3039#16 0x3FF#10) =
      some (0x39A#10, 0b000#3, 0b000#3) := by decide +kernel
theorem test_genB_04B8 : after Result.cwOut (placedRow 0b00100#5 0x04B8#16 0#10) = some 0x0FD#10 := by
  decide +kernel
theorem test_genC_2020 : after Result.cwOut (placedRow 0b01000#5 0x2020#16 0#10) = some 0x000#10 := by
  decide +kernel
theorem test_genD_ABCD : after Result.cwOut (placedRow 0b01100#5 0xABCD#16 0#10) = some 0x1EF#10 := by
  decide +kernel
theorem test_genE_1234 :
    after (fun r => (r.cwOut, r.roleOut)) (placedRow 0b10000#5 0x1234#16 0#10) =
      some (0x096#10, 0b100#3) := by decide +kernel
theorem test_chkA_3039_near_miss :
    after (fun r => (r.matched, r.cwOut, r.status)) (placedRow 0b00001#5 0x3039#16 0x39B#10) =
      some (false, 0x39A#10, 0b000#3) := by decide +kernel
theorem test_chkB_04B8 :
    after (fun r => (r.matched, r.cwOut)) (placedRow 0b00101#5 0x04B8#16 0x0FD#10) =
      some (true, 0x0FD#10) := by decide +kernel
theorem test_chkC_04B9 :
    after (fun r => (r.matched, r.roleOut)) (placedRow 0b01001#5 0x04B9#16 0x1B4#10) =
      some (true, 0b010#3) := by decide +kernel
theorem test_chkD_04B9 :
    after (fun r => (r.matched, r.cwOut)) (placedRow 0b01101#5 0x04B9#16 0x168#10) =
      some (true, 0x168#10) := by decide +kernel
theorem test_chkE_05B9 :
    after (fun r => (r.matched, r.cwOut)) (placedRow 0b10001#5 0x05B9#16 0x000#10) =
      some (true, 0x000#10) := by decide +kernel

/-! ### CLS and SYNC (95 V-L, V-S) -/

theorem test_cls_c18_is_d :
    after (fun r => (r.status, r.matched, r.roleOut, r.cwOut))
        (placedRow 0b11110#5 0x091A#16 0x1FF#10) =
      some (0b000#3, true, 0b011#3, 0x1B4#10) := by decide +kernel
theorem test_cls_flipped_b :
    after (fun r => (r.status, r.matched, r.roleOut, r.cwOut))
        (placedRow 0b00010#5 0x84B8#16 0x0FD#10) =
      some (0b001#3, false, 0b111#3, 0x1EF#10) := by decide +kernel

/-- V-S4: rows in the order C, D, A, B. -/
theorem test_sync_c_d_a_b :
    after (fun r => (r.status, r.matched, r.rowRole, r.groupOut))
        (placed 0b00011#5 #v[rowC, rowD, rowA, rowB]) =
      some (0b000#3, true, #v[0b010#3, 0b011#3, 0b000#3, 0b001#3], #v[rowA, rowB, rowC, rowD]) := by
  decide +kernel

/-- V-S8 (a duplicate) and V-S9 (a duplicate and an unmatched row). -/
theorem test_sync_failures :
    after (fun r => (r.status, r.errRow, r.errRole, r.rowRole, r.groupOut))
        (placed 0b00111#5 #v[rowC18, rowB, rowA, rowD]) =
      some (0b010#3, 3#2, 0b011#3, #v[0b011#3, 0b001#3, 0b000#3, 0b111#3], #v[0, 0, 0, 0]) ∧
    after (fun r => (r.status, r.errRow, r.errRole, r.rowRole, r.groupOut))
        (placed 0b11111#5 #v[rowA, rowA, rowB1, rowD]) =
      some (0b001#3, 2#2, 0b111#3, #v[0b000#3, 0b111#3, 0b111#3, 0b011#3], #v[0, 0, 0, 0]) := by
  constructor <;> decide +kernel

/-! ### The illegal words (95 V-I) and the edges (95 V-T) -/

theorem test_illegal_words :
    [0b10100#5, 0b11000#5, 0b11100#5, 0b10101#5, 0b11001#5, 0b11101#5].map
        (fun c => after id (placedRow c 0x1234#16 0x06A#10)) =
      List.replicate 6 (some { Result.empty with status := 0b011#3 }) := by decide +kernel

/-- V-T edge 6: a request at a reset edge is discarded. -/
theorem test_reset_discards_request :
    let e := { requestInputs 0b00100#5 (singleRow 0x048D000#26) with rst := true }
    after Result.status (placedEdges [e]) = some 0b111#3 ∧
      validAfter (placedEdges [e]) = some false := by decide

/-- V-T edge 4: an idle edge holds the record and clears `RSP_VALID`. -/
theorem test_idle_holds :
    let s := { placedEdges [nopInputs] with
      rspValid := true, res := { Result.empty with cwOut := 0x06A#10 } }
    after Result.cwOut s = some 0x06A#10 ∧ validAfter s = some false := by decide

/-- Program lines assemble to the encodings of 95 P1: edge 3 and edge 1. -/
theorem test_assemble_p1 :
    assemble [.gen .B 0x04B8#16, .reset] =
      [requestInputs 0b00100#5 #v[0x012E000#26, 0, 0, 0], resetInputs] := by decide

/-! ### Witnesses: states and operands that meet the hypotheses of the statements -/

theorem witness_EdgeResetsServesOrHolds :
    (placedEdges [resetInputs]).inputs.rst = true ∧
    ((placed 0#5 #v[0, 0, 0, 0]).inputs.rst = false ∧
      (placed 0#5 #v[0, 0, 0, 0]).inputs.reqValid = true) ∧
    ((placedEdges [nopInputs]).inputs.rst = false ∧
      (placedEdges [nopInputs]).inputs.reqValid = false) := by decide

theorem witness_StepRunsDecodedRequest :
    Instr.wf (.cls 0b111#3) = true ∧ decode 0b11110#5 = .cls 0b111#3 ∧
      (placed 0b11110#5 #v[rowA, 0, 0, 0]).upcoming = requestInputs 0b11110#5 #v[rowA, 0, 0, 0] :: []
      := by decide

theorem witness_PlacedTableWordRunsNext : decodeTableWord 8 0b11101 = some .illegalChk111 := by decide

theorem witness_ResetEdgeLoadsResetValues : (placedEdges [resetInputs]).inputs.rst = true := by decide

theorem witness_IdleEdgeHoldsResult : (placedEdges [nopInputs]).inputs.Idle := ⟨rfl, rfl⟩

theorem witness_ResetAndIdleIgnoreOtherInputs :
    (∃ s s' t t', step s = .next t ∧ step s' = .next t' ∧ s.inputs.rst = true ∧
      s'.inputs.rst = true ∧ s.inputs.cmd ≠ s'.inputs.cmd) ∧
    (∃ s s' t t', step s = .next t ∧ step s' = .next t' ∧ s.inputs.Idle ∧ s'.inputs.Idle ∧
      s.res = s'.res ∧ s.inputs.cmd ≠ s'.inputs.cmd) :=
  ⟨⟨placedEdges [resetInputs], placedEdges [{ resetInputs with cmd := 1#5 }], _, _, rfl, rfl, rfl,
      rfl, by decide⟩,
    ⟨placedEdges [nopInputs], placedEdges [{ nopInputs with cmd := 1#5 }], _, _, rfl, rfl, ⟨rfl, rfl⟩,
      ⟨rfl, rfl⟩, rfl, by decide⟩⟩

theorem witness_RspValidMarksAcceptedRequest :
    ∃ t, step (placed 0b00011#5 #v[rowA, rowB, rowC, rowD]) = .next t ∧ t.rspValid = true :=
  ⟨_, rfl, rfl⟩

theorem witness_GenWritesCheckword :
    (Instr.genE, 0b100#3, 0b0000000000#10) ∈
      [(Instr.genA, 0b000#3, 0b0011111100#10), (Instr.genB, 0b001#3, 0b0110011000#10),
       (Instr.genC, 0b010#3, 0b0101101000#10), (Instr.genD, 0b011#3, 0b0110110100#10),
       (Instr.genE, 0b100#3, 0b0000000000#10)] := by decide

theorem witness_ChkComparesCheckword :
    (Instr.chkE, 0b100#3, 0b0000000000#10) ∈
      [(Instr.chkA, 0b000#3, 0b0011111100#10), (Instr.chkB, 0b001#3, 0b0110011000#10),
       (Instr.chkC, 0b010#3, 0b0101101000#10), (Instr.chkD, 0b011#3, 0b0110110100#10),
       (Instr.chkE, 0b100#3, 0b0000000000#10)] := by decide

theorem witness_ClsReportsRoleBySyndrome :
    (∀ k : Fin 4, syndrome #v[rowA, rowB, rowC, rowD][k] = offsetRom (canonicalRole k)) ∧
      ∀ k : Fin 4, syndrome 0#26 ≠ offsetRom (canonicalRole k) := by decide +kernel

theorem witness_SyncPlacesRowsByRole :
    ∀ k : Fin 4, ∃ i : Fin 4,
      classify (placed 0b00011#5 #v[rowD, rowC, rowB, rowA]).inputs.rowIn[i] =
        some (canonicalRole k) := by decide +kernel

theorem witness_SyncNamesFirstUnmatchedRow :
    let w := (placed 0b00011#5 #v[rowD, rowD, rowD, rowB1]).inputs.rowIn
    classify w[(3 : Fin 4)] = none ∧ ∀ j : Fin 4, j < 3 → classify w[j] ≠ none := by decide +kernel

theorem witness_SyncNamesFirstDuplicateRow :
    let w := (placed 0b00011#5 #v[rowA, rowB, rowC18, rowD]).inputs.rowIn
    (∀ j : Fin 4, classify w[j] ≠ none) ∧ classify w[(3 : Fin 4)] = some .D ∧
      (∃ j : Fin 4, j < 3 ∧ classify w[j] = some .D) ∧
      ∀ j k : Fin 4, j < k → k < 3 → classify w[j] ≠ classify w[k] := by decide +kernel

theorem witness_IllegalWordReportsIllegalRole : Instr.illegalChk111 ∈ illegalInstrs := by decide

theorem witness_UnnamedFieldsAreEmpty :
    (∃ t, exec (genOf .E) (placedEdges []) = .next t ∧ ∀ role, genOf .E ≠ .sync role) ∧
    (∃ t, exec (.sync 0b111#3) (placed 0b11111#5 #v[rowA, rowA, rowC, rowD]) = .next t ∧
      t.res.status ≠ 0b000#3) ∧
    (∃ t, exec (.sync 0b000#3) (placed 0b00011#5 #v[rowA, rowB, rowC, rowD]) = .next t ∧
      t.res.status = 0b000#3 ∧ t.res.status ≠ 0b010#3) ∧
    (∃ t, exec .illegalChk111 (placed 0b11101#5 #v[rowA, rowB, rowC, rowD]) = .next t ∧
      Instr.illegalChk111 ∈ illegalInstrs) :=
  ⟨⟨_, rfl, by intro role; simp [genOf]⟩, ⟨_, rfl, by decide +kernel⟩, ⟨_, rfl, by decide +kernel⟩,
    ⟨_, rfl, by decide⟩⟩

theorem witness_StatusReportedByEachRequest :
    (∃ s t, exec (genOf .E) s = .next t) ∧ (∃ s t, exec (chkOf .E) s = .next t) ∧
    (∃ s t, exec .illegalGen101 s = .next t ∧ Instr.illegalGen101 ∈ illegalInstrs) ∧
    (∃ s t, exec (.cls 0b111#3) s = .next t ∧ classify s.inputs.rowIn[0] ≠ none) ∧
    (∃ s t, exec (.cls 0b111#3) s = .next t ∧ classify s.inputs.rowIn[0] = none) ∧
    (∃ s t, exec (.sync 0b111#3) s = .next t ∧
      ∃ i : Fin 4, classify s.inputs.rowIn[i] = none) ∧
    (∃ s t, exec (.sync 0b111#3) s = .next t ∧
      (∀ i : Fin 4, classify s.inputs.rowIn[i] ≠ none) ∧
      ∃ i j : Fin 4, i < j ∧ classify s.inputs.rowIn[i] = classify s.inputs.rowIn[j]) ∧
    (∃ s t, exec (.sync 0b111#3) s = .next t ∧
      (∀ i : Fin 4, classify s.inputs.rowIn[i] ≠ none) ∧
      ∀ i j : Fin 4, i < j → classify s.inputs.rowIn[i] ≠ classify s.inputs.rowIn[j]) :=
  ⟨⟨placedEdges [], _, rfl⟩, ⟨placedEdges [], _, rfl⟩, ⟨placedEdges [], _, rfl, by decide⟩,
    ⟨placed 0b11110#5 #v[rowD, 0, 0, 0], _, rfl, by decide +kernel⟩,
    ⟨placed 0b11110#5 #v[0, 0, 0, 0], _, rfl, by decide +kernel⟩,
    ⟨placed 0b11111#5 #v[rowA, rowA, rowB1, rowD], _, rfl, by decide +kernel⟩,
    ⟨placed 0b11111#5 #v[rowA, rowA, rowC, rowD], _, rfl, by decide +kernel, by decide +kernel⟩,
    ⟨placed 0b11111#5 #v[rowC, rowA, rowB, rowD], _, rfl, by decide +kernel, by decide +kernel⟩⟩

theorem witness_IgnoredInputsDoNotMatter :
    (∃ s s' t t', rowData s.inputs.rowIn[0] = rowData s'.inputs.rowIn[0] ∧
      s.inputs.rowIn ≠ s'.inputs.rowIn ∧ exec (genOf .E) s = .next t ∧
      exec (genOf .E) s' = .next t') ∧
    (∃ s s' t t', s.inputs.rowIn[0] = s'.inputs.rowIn[0] ∧ s.inputs.rowIn ≠ s'.inputs.rowIn ∧
      exec (chkOf .E) s = .next t ∧ exec (chkOf .E) s' = .next t') ∧
    (∃ s s' t t', s.inputs.rowIn[0] = s'.inputs.rowIn[0] ∧ s.inputs.rowIn ≠ s'.inputs.rowIn ∧
      exec (.cls 0b000#3) s = .next t ∧ exec (.cls 0b111#3) s' = .next t') ∧
    (∃ s s' t t', s.inputs.rowIn = s'.inputs.rowIn ∧ exec (.sync 0b000#3) s = .next t ∧
      exec (.sync 0b111#3) s' = .next t') :=
  ⟨⟨placedRow 0#5 0x1234#16 0x3FF#10, placedRow 0#5 0x1234#16 0x000#10, _, _, by decide, by decide,
      rfl, rfl⟩,
    ⟨placed 1#5 #v[rowA, 0, 0, 0], placed 1#5 #v[rowA, 0, 0, rowD], _, _, by decide, by decide, rfl,
      rfl⟩,
    ⟨placed 2#5 #v[rowA, 0, 0, 0], placed 2#5 #v[rowA, 0, 0, rowD], _, _, by decide, by decide, rfl,
      rfl⟩,
    ⟨placed 3#5 #v[rowA, 0, 0, 0], placed 31#5 #v[rowA, 0, 0, 0], _, _, by decide, rfl, rfl⟩⟩

theorem witness_ResultIndependentOfEarlierRequests :
    ∃ s s' t t', s.inputs.Accepted ∧ s'.inputs.Accepted ∧ s.inputs.cmd = s'.inputs.cmd ∧
      s.inputs.rowIn = s'.inputs.rowIn ∧ s.res ≠ s'.res ∧ step s = .next t ∧ step s' = .next t' :=
  ⟨placed 0#5 #v[rowA, 0, 0, 0], { placed 0#5 #v[rowA, 0, 0, 0] with res := Result.empty }, _, _,
    ⟨rfl, rfl⟩, ⟨rfl, rfl⟩, rfl, rfl, by decide, rfl, rfl⟩

theorem witness_CommandWordMap :
    (placed 0b11101#5 #v[0, 0, 0, 0]).inputs.Accepted ∧
      decode (placed 0b11101#5 #v[0, 0, 0, 0]).inputs.cmd ∈ illegalInstrs :=
  ⟨⟨rfl, rfl⟩, by decide⟩

theorem witness_RequestRoundTrip : Instr.wf (.sync 0b111#3) = true := by decide

theorem witness_OffsetRomHoldsFiveWords : (0b101#3 : RoleCode).toNat > 4 := by decide

theorem witness_SerialRowRoundTrip :
    rowOfSerial? (List.replicate 26 true) = some 0x3FFFFFF#26 := by decide

theorem witness_CheckwordLaws : raw 0x05B9#16 = 0#10 ∧ raw 0x0B72#16 = 0#10 := by decide +kernel

theorem witness_AcceptanceIsSyndromeEquality :
    ∃ t, exec (chkOf .C) (placed 0b01001#5 #v[rowC, 0, 0, 0]) = .next t ∧ t.res.matched = true :=
  ⟨_, rfl, by decide +kernel⟩

theorem witness_RowMatchesAtMostOneRole :
    (∃ t t', exec (chkOf .C) (placed 0b01001#5 #v[rowC, 0, 0, 0]) = .next t ∧
      exec (chkOf .C) (placed 0b01001#5 #v[rowC, 0, 0, 0]) = .next t' ∧ t.res.matched = true ∧
      t'.res.matched = true) ∧
    (∃ t t', exec (chkOf .E) (placed 0b10001#5 #v[0, 0, 0, 0]) = .next t ∧
      exec (chkOf .A) (placed 0b10001#5 #v[0, 0, 0, 0]) = .next t' ∧
      syndrome (placed 0b10001#5 #v[0, 0, 0, 0]).inputs.rowIn[0] = 0#10) :=
  ⟨⟨_, _, rfl, rfl, by decide +kernel, by decide +kernel⟩, ⟨_, _, rfl, rfl, by decide +kernel⟩⟩

theorem witness_SingleBitFlipMovesSyndrome :
    matchesRole rowC .C = true ∧ matchesRole rowD .D = true ∧
      matchesRole (flipBit rowC 18) .D = true ∧ flipBit rowC 18 = rowC18 := by decide +kernel

theorem witness_GeneratedRowIsRecognised :
    (∃ t t', exec (genOf .D) (placedRow 0b01100#5 0x5241#16 0#10) = .next t ∧
      (placed 0b00010#5 #v[rowD, 0, 0, 0]).inputs.rowIn[0] = mkRow 0x5241#16 t.res.cwOut ∧
      exec (.cls 0#3) (placed 0b00010#5 #v[rowD, 0, 0, 0]) = .next t' ∧ Role.D ≠ .E) ∧
    (∃ t t', exec (genOf .E) (placedRow 0b10000#5 0x05B9#16 0#10) = .next t ∧
      (placedRow 0b00010#5 0x05B9#16 0#10).inputs.rowIn[0] = mkRow 0x05B9#16 t.res.cwOut ∧
      exec (.cls 0#3) (placedRow 0b00010#5 0x05B9#16 0#10) = .next t') :=
  ⟨⟨_, _, rfl, by decide +kernel, rfl, by decide⟩, ⟨_, _, rfl, by decide +kernel, rfl⟩⟩

theorem witness_ClassifyFindsTheMatchingRole :
    checkword (rowData 0#26) .E = rowCheckword 0#26 := by decide +kernel

theorem witness_SyncSuccessIsBijection :
    ∃ t, exec (.sync 0#3) (placed 3#5 #v[rowB, rowA, rowD, rowC]) = .next t ∧
      t.res.status = 0b000#3 ∧ t.res.matched = true :=
  ⟨_, rfl, by decide +kernel, by decide +kernel⟩

theorem witness_SyncIsOptimalAssignment :
    (∃ t, exec (.sync 0#3) (placed 3#5 #v[rowA, rowB, rowC, rowD]) = .next t) ∧
      Function.Injective canonicalRole ∧
      ∀ i : Fin 4, canonicalRole i ≠ .E ∧
        checkword (rowData (placed 3#5 #v[rowA, rowB, rowC, rowD]).inputs.rowIn[i])
            (canonicalRole i) =
          rowCheckword (placed 3#5 #v[rowA, rowB, rowC, rowD]).inputs.rowIn[i] :=
  ⟨⟨_, rfl⟩, by decide, by decide +kernel⟩

theorem witness_SyncIgnoresRowOrder :
    ∃ t t', (∀ i : Fin 4, (placed 3#5 #v[rowB, rowA, rowC, rowD]).inputs.rowIn[i] =
        (placed 3#5 #v[rowA, rowB, rowC, rowD]).inputs.rowIn[Equiv.swap (0 : Fin 4) 1 i]) ∧
      exec (.sync 0#3) (placed 3#5 #v[rowA, rowB, rowC, rowD]) = .next t ∧
      exec (.sync 0#3) (placed 3#5 #v[rowB, rowA, rowC, rowD]) = .next t' ∧
      t.res.status = 0b000#3 :=
  ⟨_, _, by decide, rfl, rfl, by decide +kernel⟩

theorem witness_SyncRejectsSingleBitError :
    (∃ t t', exec (.sync 0#3) (placed 3#5 #v[rowA, rowB, rowC, rowD]) = .next t ∧
      t.res.status = 0b000#3 ∧
      (placed 3#5 #v[rowA, rowB, flipBit rowC 18, rowD]).inputs.rowIn[(2 : Fin 4)] =
        flipBit rowC 18 ∧
      exec (.sync 0#3) (placed 3#5 #v[rowA, rowB, flipBit rowC 18, rowD]) = .next t' ∧
      classify rowC = some .C) ∧
    (∃ t t', exec (.sync 0#3) (placed 3#5 #v[rowA, rowB, rowC, rowD]) = .next t ∧
      t.res.status = 0b000#3 ∧
      exec (.sync 0#3) (placed 3#5 #v[rowA, rowB, rowC, flipBit rowD 18]) = .next t' ∧
      classify rowD = some .D) ∧
    (∃ t t', exec (.sync 0#3) (placed 3#5 #v[rowA, rowB, rowC, rowD]) = .next t ∧
      t.res.status = 0b000#3 ∧
      exec (.sync 0#3) (placed 3#5 #v[flipBit rowA 25, rowB, rowC, rowD]) = .next t' ∧
      classify rowA = some .A) :=
  ⟨⟨_, _, rfl, by decide +kernel, rfl, rfl, by decide +kernel⟩,
    ⟨_, _, rfl, by decide +kernel, rfl, by decide +kernel⟩,
    ⟨_, _, rfl, by decide +kernel, rfl, by decide +kernel⟩⟩

/-- Where the clauses meet: bit 18 of an A or a B row, and bits 17 and 19 of a C row, are not the
exception (R59, R73). -/
theorem witness_SyncRejectsSingleBitError_boundary :
    [classify rowA, classify rowB, classify rowC] = [some .A, some .B, some .C] ∧
    after (fun r => (r.status, r.errRow)) (placed 3#5 #v[rowA, rowB, rowC, rowD]) =
      some (0b000#3, 0#2) ∧
    [#v[flipBit rowA 18, rowB, rowC, rowD], #v[rowA, flipBit rowB 18, rowC, rowD],
        #v[rowA, rowB, flipBit rowC 17, rowD], #v[rowA, rowB, flipBit rowC 19, rowD]].map
        (fun w => after (fun r => (r.status, r.errRow)) (placed 3#5 w)) =
      [some (0b001#3, 0#2), some (0b001#3, 1#2), some (0b001#3, 2#2), some (0b001#3, 2#2)] := by
  decide +kernel

theorem witness_SyncKeepsEveryRow :
    ∃ t, exec (.sync 0#3) (placed 3#5 #v[rowD, rowC, rowB, rowA]) = .next t ∧
      t.res.matched = true :=
  ⟨_, rfl, by decide +kernel⟩

theorem witness_StepKeepsCoherent :
    ∃ t, State.Coherent (placed 3#5 #v[rowA, rowB, rowC, rowD]) ∧
      step (placed 3#5 #v[rowA, rowB, rowC, rowD]) = .next t :=
  ⟨_, by decide +kernel, rfl⟩

theorem witness_FirstEffectiveEdgeMakesCoherent :
    ∃ t u, Inputs.Effective resetInputs ∧
      step { State.powerUp with upcoming := resetInputs :: State.powerUp.upcoming } = .next t ∧
      step { State.reset with upcoming := [resetInputs] } = .next u :=
  ⟨_, _, .inl rfl, rfl, rfl⟩

theorem witness_CoherentResultIsReadable :
    State.Coherent State.reset ∧ statusCodeShown 0b110#3 = false ∧ roleCodeShown 0b101#3 = false := by
  decide

theorem witness_StatusNoneUntilFirstRequest :
    (∃ t, State.reset.res = Result.resetValues ∧
      (∀ e ∈ [nopInputs, resetInputs], ¬ Inputs.Accepted e) ∧
      Sys2Proof.core.run 2 { State.reset with upcoming := [nopInputs, resetInputs] } = .next t) ∧
    (∃ s t, exec (.sync 0b111#3) s = .next t) :=
  ⟨⟨_, rfl, by simp [Inputs.Accepted, nopInputs, resetInputs], rfl⟩, ⟨placedEdges [], _, rfl⟩⟩

theorem witness_ResultHeldThroughIdleEdges :
    ∃ t u, Inputs.Accepted (requestInputs 2#5 #v[rowA, 0, 0, 0]) ∧
      (∀ x ∈ [nopInputs, nopInputs], Inputs.Idle x) ∧
      step { State.reset with
        upcoming := requestInputs 2#5 #v[rowA, 0, 0, 0] :: ([nopInputs, nopInputs] ++ []) } =
          .next u ∧
      Sys2Proof.core.run 3 { State.reset with
        upcoming := requestInputs 2#5 #v[rowA, 0, 0, 0] :: ([nopInputs, nopInputs] ++ []) } =
          .next t :=
  ⟨_, _, ⟨rfl, rfl⟩, by simp [Inputs.Idle, nopInputs], rfl, rfl⟩

theorem witness_RunForgetsBeforeLastEffectiveEdge :
    ∃ t t', Inputs.Effective (requestInputs 0#5 #v[rowA, 0, 0, 0]) ∧
      (∀ x ∈ [nopInputs], Inputs.Idle x) ∧
      Sys2Proof.core.run 3 { State.powerUp with
        upcoming := [resetInputs] ++ requestInputs 0#5 #v[rowA, 0, 0, 0] :: [nopInputs] } =
          .next t ∧
      Sys2Proof.core.run 2 { State.reset with
        upcoming := [] ++ requestInputs 0#5 #v[rowA, 0, 0, 0] :: [nopInputs] } = .next t' :=
  ⟨_, _, .inr rfl, by simp [Inputs.Idle, nopInputs], rfl, rfl⟩

theorem witness_SerialGroupBecomesSyncRequest :
    groupOfSerial? (List.replicate 26 true ++ List.replicate 78 false) =
      some #v[0x3FFFFFF#26, 0#26, 0#26, 0#26] := by decide +kernel

/-- One record of each kind, and two that no request writes: an E, or one role on two rows, in
`ROW_ROLE` after a failed SYNC (R44, R68). -/
theorem witness_RequestRecordsAreExact :
    (∃ s t, exec (.sync 0#3) s = .next t ∧ t.res.FromSyncDuplicate) ∧
    (∃ s t, exec (.sync 0#3) s = .next t ∧ t.res.FromSyncNoMatch) ∧
    ¬ Result.FromRequest { Result.empty with
        status := statusDuplicateRole, errRow := 1#2, errRole := 0b000#3,
        rowRole := #v[0b000#3, 0b111#3, 0b100#3, 0b100#3] } ∧
    ¬ Result.FromRequest { Result.empty with
        status := statusNoMatch, errRow := 1#2,
        rowRole := #v[0b000#3, 0b111#3, 0b000#3, 0b000#3] } :=
  ⟨⟨placed 3#5 #v[rowA, rowB, rowC18, rowD], _, rfl, by decide +kernel⟩,
    ⟨placed 3#5 #v[rowA, rowB1, rowC18, rowD], _, rfl, by decide +kernel⟩, by decide +kernel,
    by decide +kernel⟩

end Sys2Proof.Tests
end

/-! What an edge of each of R23's three kinds does, and the statements on the edges. -/

namespace Sys2Proof.Machine

theorem step_of_rst {s : State} (h : s.inputs.rst = true) : step s = resetEdge s := by
  simp [step, h]

theorem step_of_accepted {s : State} (h : s.inputs.Accepted) :
    step s = exec (decode s.inputs.cmd) s := by
  obtain ⟨hrst, hreq⟩ := h
  simp [step, hrst, hreq]

theorem step_of_idle {s : State} (h : s.inputs.Idle) : step s = idleEdge s := by
  obtain ⟨hrst, hreq⟩ := h
  simp [step, hrst, hreq]

/-- All that an instruction can answer: it completes with its record. -/
theorem exec_eq_next_iff {i : Instr} {s t : State} :
    exec i s = .next t ↔ t = s.afterEdge true (requestResult i s.inputs.rowIn) := by
  rw [exec_eq_complete, complete_eq_next_iff]

/-- All that an accepted request does: its instruction's record, with `RSP_VALID` set. -/
theorem step_eq_next_iff_of_accepted {s t : State} (h : s.inputs.Accepted) :
    step s = .next t ↔
      t = s.afterEdge true (requestResult (decode s.inputs.cmd) s.inputs.rowIn) := by
  rw [step_of_accepted h, exec_eq_next_iff]

theorem edgeValid_eq_true_iff {e : Inputs} : edgeValid e = true ↔ e.Accepted := by
  simp [edgeValid, Inputs.Accepted]

/-- Settles O1: the step is `resetEdge`, `exec` or `idleEdge` by the two input bits. -/
theorem edgeResetsServesOrHolds : Obligations.EdgeResetsServesOrHolds := by
  intro s
  refine ⟨fun hrst => ?_, fun hrst hreq => ?_, fun hrst hreq => ?_⟩
  · exact ⟨_, (step_of_rst hrst).trans (resetEdge_eq_next_iff.2 rfl), rfl, rfl⟩
  · have hacc : s.inputs.Accepted := ⟨hrst, hreq⟩
    exact ⟨step_of_accepted hacc, _, (step_eq_next_iff_of_accepted hacc).2 rfl, rfl⟩
  · exact ⟨_, (step_of_idle ⟨hrst, hreq⟩).trans (idleEdge_eq_next_iff.2 rfl), rfl, rfl⟩

/-- Settles O2: the placed inputs are what the edge samples, and completing uses them up. -/
theorem stepRunsDecodedRequest : Obligations.StepRunsDecodedRequest := by
  intro s i cmd w rest _ hdec hup
  have hin : s.inputs = requestInputs cmd w := State.inputs_of_upcoming hup
  have hacc : s.inputs.Accepted := hin ▸ ⟨rfl, rfl⟩
  refine ⟨?_, ?_, fun t ht => ?_⟩
  · rw [step_of_accepted hacc, hin, ← hdec]
    rfl
  · rw [operandRows, hin]
    rfl
  · rw [(step_eq_next_iff_of_accepted hacc).1 ht, State.afterEdge_upcoming, hup, List.tail_cons]

/-- Settles O4: a reset edge loads `Result.resetValues`, which is R24's table. -/
theorem resetEdgeLoadsResetValues : Obligations.ResetEdgeLoadsResetValues := by
  refine ⟨fun s hrst => ?_, rfl, rfl⟩
  exact ⟨_, (step_of_rst hrst).trans (resetEdge_eq_next_iff.2 rfl), rfl, rfl, rfl, rfl⟩

/-- Settles O7: `RSP_VALID` after an edge is `edgeValid` of the edge's inputs. -/
theorem rspValidMarksAcceptedRequest : Obligations.RspValidMarksAcceptedRequest := by
  intro s t ht
  rw [step_eq_next_iff.1 ht, State.afterEdge_rspValid, edgeValid_eq_true_iff]

/-- Settles O40: the reset record shows `NONE` codes only, and `RSP_VALID` is 0. -/
theorem resetStateIsCoherent : Obligations.ResetStateIsCoherent :=
  ⟨⟨by decide, by decide, by decide, by decide⟩, .inl ⟨rfl, rfl⟩⟩

/-- Settles O20: an accepted request's record is `requestResult` of its command word and rows. -/
theorem resultIndependentOfEarlierRequests : Obligations.ResultIndependentOfEarlierRequests := by
  intro s s' t t' hacc hacc' hcmd hrows ht ht'
  rw [(step_eq_next_iff_of_accepted hacc).1 ht, (step_eq_next_iff_of_accepted hacc').1 ht',
    hcmd, hrows]
  exact ⟨rfl, rfl⟩

end Sys2Proof.Machine

/-! Which record each request leaves: one equation per kind of instruction, and for CLS and
SYNC one equation per outcome. -/

namespace Sys2Proof.Machine

@[simp] theorem requestResult_genOf (r : Role) (w : Rows) :
    requestResult (genOf r) w = genResult r (rowData w[0]) := by
  cases r <;> rfl

@[simp] theorem requestResult_chkOf (r : Role) (w : Rows) :
    requestResult (chkOf r) w = chkResult r (rowData w[0]) (rowCheckword w[0]) := by
  cases r <;> rfl

@[simp] theorem requestResult_cls (role : RoleCode) (w : Rows) :
    requestResult (.cls role) w = clsResult w[0] := rfl

@[simp] theorem requestResult_sync (role : RoleCode) (w : Rows) :
    requestResult (.sync role) w = syncResult w := rfl

theorem requestResult_of_mem_illegalInstrs {i : Instr} (h : i ∈ illegalInstrs) (w : Rows) :
    requestResult i w = { Result.empty with status := statusIllegalRole } := by
  simp only [illegalInstrs, List.mem_cons, List.not_mem_nil, or_false] at h
  rcases h with rfl | rfl | rfl | rfl | rfl | rfl <;> rfl

/-- R49's map on instructions: every instruction is of one of five kinds. -/
theorem instr_kind (i : Instr) :
    (∃ r, i = genOf r) ∨ (∃ r, i = chkOf r) ∨ (∃ role, i = .cls role) ∨ (∃ role, i = .sync role) ∨
      i ∈ illegalInstrs := by
  cases i with
  | genA => exact .inl ⟨.A, rfl⟩
  | genB => exact .inl ⟨.B, rfl⟩
  | genC => exact .inl ⟨.C, rfl⟩
  | genD => exact .inl ⟨.D, rfl⟩
  | genE => exact .inl ⟨.E, rfl⟩
  | chkA => exact .inr (.inl ⟨.A, rfl⟩)
  | chkB => exact .inr (.inl ⟨.B, rfl⟩)
  | chkC => exact .inr (.inl ⟨.C, rfl⟩)
  | chkD => exact .inr (.inl ⟨.D, rfl⟩)
  | chkE => exact .inr (.inl ⟨.E, rfl⟩)
  | cls role => exact .inr (.inr (.inl ⟨role, rfl⟩))
  | sync role => exact .inr (.inr (.inr (.inl ⟨role, rfl⟩)))
  | illegalGen101 | illegalGen110 | illegalGen111 | illegalChk101 | illegalChk110 | illegalChk111 =>
    exact .inr (.inr (.inr (.inr (by decide))))

/-! ### Roles and their canonical positions -/

theorem mem_trialOrder_iff {r : Role} : r ∈ trialOrder ↔ r ≠ .E := by
  cases r <;> decide

theorem ne_E_iff_exists_canonicalRole {r : Role} : r ≠ .E ↔ ∃ k, r = canonicalRole k := by
  cases r <;> decide

theorem canonicalRole_ne_E (k : Fin 4) : canonicalRole k ≠ .E :=
  ne_E_iff_exists_canonicalRole.2 ⟨k, rfl⟩

theorem canonicalRole_injective : Function.Injective canonicalRole := by
  decide

theorem roleCode_canonicalRole_toNat (k : Fin 4) : (roleCode (canonicalRole k)).toNat = k.val := by
  revert k
  decide

theorem roleCode_ne_roleNone (r : Role) : roleCode r ≠ roleNone := by
  cases r <;> decide

theorem roleOfCode?_eq_some_iff {c : RoleCode} {r : Role} :
    roleOfCode? c = some r ↔ c = roleCode r := by
  constructor
  · revert c
    cases r <;> decide
  · rintro rfl
    exact roleOfCode?_roleCode r

theorem roleOutCode_eq_roleNone_iff {c : Option Role} : roleOutCode c = roleNone ↔ c = none := by
  cases c with
  | none => simp [roleOutCode]
  | some r => simp [roleOutCode, roleCode_ne_roleNone]

theorem roleOutCode_eq_roleCode_iff {c : Option Role} {r : Role} :
    roleOutCode c = roleCode r ↔ c = some r := by
  cases c with
  | none => simp [roleOutCode, (roleCode_ne_roleNone r).symm]
  | some x => simp [roleOutCode, roleCode_injective.eq_iff]

theorem roleCodeLegal_roleCode (r : Role) : roleCodeLegal (roleCode r) = true := by
  cases r <;> decide

theorem exists_roleCode_of_roleCodeLegal {c : RoleCode} (h : roleCodeLegal c = true) :
    ∃ r, c = roleCode r := by
  have hmem : ∀ c : RoleCode, roleCodeLegal c = true →
      c ∈ [Role.A, .B, .C, .D, .E].map roleCode := by
    decide
  obtain ⟨r, -, hr⟩ := List.mem_map.1 (hmem c h)
  exact ⟨r, hr.symm⟩

theorem classify_ne_none_iff {w : Row} :
    classify w ≠ none ↔ ∃ k, classify w = some (canonicalRole k) := by
  constructor
  · intro h
    obtain ⟨r, hr⟩ := Option.ne_none_iff_exists'.1 h
    obtain ⟨k, rfl⟩ := ne_E_iff_exists_canonicalRole.1 (classify_eq_some_iff.1 hr).1
    exact ⟨k, hr⟩
  · rintro ⟨k, hk⟩
    simp [hk]

/-! ### The record of CLS -/

theorem clsResult_of_classify_some {w : Row} {r : Role} (h : classify w = some r) :
    clsResult w =
      { Result.empty with matched := true, roleOut := roleCode r, cwOut := syndrome w } := by
  simp [clsResult, h]

theorem clsResult_of_classify_none {w : Row} (h : classify w = none) :
    clsResult w = { Result.empty with status := statusNoMatch, cwOut := syndrome w } := by
  rw [clsResult, h]
  rfl

/-! ### The record of SYNC -/

/-- Two vectors of four are equal when they agree at every index. -/
theorem vector_four_ext {α : Type} {u v : Vector α 4} (h : ∀ i : Fin 4, u[i] = v[i]) : u = v :=
  Vector.ext fun i hi => h ⟨i, hi⟩

/-- `Vector.getElem_ofFn` at an index of `Fin 4`, as the model reads its vectors. -/
theorem ofFn_get {α : Type} (f : Fin 4 → α) (i : Fin 4) : (Vector.ofFn f)[i] = f i := by
  simp

theorem sharesRole_classifyRows_iff {w : Rows} {i : Fin 4} :
    SharesRole (classifyRows w) i ↔ ∃ j : Fin 4, j < i ∧ classify w[j] = classify w[i] := by
  simp only [SharesRole, classifyRows_get]

/-- The scan assigns each row its `assignedRole`. -/
theorem syncScan_asg_eq_assignedRole (w : Rows) (i : Fin 4) :
    (syncScan (classifyRows w)).asg[i] = assignedRole w i := by
  rw [syncScan_asg, assignedRole]
  exact if_congr sharesRole_classifyRows_iff rfl (classifyRows_get w i)

theorem assignedRole_eq_none_iff {w : Rows} {i : Fin 4} :
    assignedRole w i = none ↔
      classify w[i] = none ∨ ∃ j : Fin 4, j < i ∧ classify w[j] = classify w[i] := by
  unfold assignedRole
  split
  next h => exact iff_of_true rfl (.inr h)
  next h => exact (or_iff_left h).symm

theorem assignedRole_eq_some_iff {w : Rows} {i : Fin 4} {r : Role} :
    assignedRole w i = some r ↔
      classify w[i] = some r ∧ ∀ j : Fin 4, j < i → classify w[j] ≠ some r := by
  unfold assignedRole
  split
  next h =>
    obtain ⟨j, hj, he⟩ := h
    refine iff_of_false (by simp) ?_
    rintro ⟨hi, hlt⟩
    exact hlt j hj (he.trans hi)
  next h =>
    refine (and_iff_left_of_imp fun hi j hj he => ?_).symm
    exact h ⟨j, hj, he.trans hi.symm⟩

theorem assignedRole_of_first {w : Rows} {i : Fin 4}
    (h : ∀ j : Fin 4, j < i → classify w[j] ≠ classify w[i]) :
    assignedRole w i = classify w[i] := by
  refine if_neg ?_
  rintro ⟨j, hj, he⟩
  exact h j hj he

theorem rowRoles_syncScan (w : Rows) :
    rowRoles (syncScan (classifyRows w)).asg =
      Vector.ofFn fun j : Fin 4 => roleOutCode (assignedRole w j) :=
  vector_four_ext fun i => by rw [rowRoles_get, syncScan_asg_eq_assignedRole, ofFn_get]

/-- Row `i` is the first that matches no role. -/
theorem lowestSet_noMatch_eq_some_iff {w : Rows} {i : Fin 4} :
    lowestSet (syncScan (classifyRows w)).noMatch = some i ↔
      classify w[i] = none ∧ ∀ j : Fin 4, j < i → classify w[j] ≠ none := by
  simp only [lowestSet_eq_some_iff, ← Bool.not_eq_true, syncScan_noMatch, classifyRows_get, ne_eq]

theorem lowestSet_noMatch_eq_none_iff {w : Rows} :
    lowestSet (syncScan (classifyRows w)).noMatch = none ↔ ∀ i : Fin 4, classify w[i] ≠ none := by
  simp only [lowestSet_eq_none_iff, ← Bool.not_eq_true, syncScan_noMatch, classifyRows_get, ne_eq]

/-- Where every row has a role, row `i` is the first whose role an earlier row has. -/
theorem lowestSet_dup_eq_some_iff {w : Rows} (hall : ∀ j : Fin 4, classify w[j] ≠ none)
    {i : Fin 4} :
    lowestSet (syncScan (classifyRows w)).dup = some i ↔
      (∃ j : Fin 4, j < i ∧ classify w[j] = classify w[i]) ∧
        ∀ j k : Fin 4, j < k → k < i → classify w[j] ≠ classify w[k] := by
  simp only [lowestSet_eq_some_iff, ← Bool.not_eq_true, syncScan_dup, classifyRows_get,
    sharesRole_classifyRows_iff, hall, ne_eq, not_false_eq_true, true_and, not_exists, not_and]
  refine and_congr_right fun _ => ?_
  exact ⟨fun h j k hjk hki => h k hki j hjk, fun h k hki j hjk => h j k hjk hki⟩

theorem lowestSet_dup_eq_none_iff {w : Rows} (hall : ∀ j : Fin 4, classify w[j] ≠ none) :
    lowestSet (syncScan (classifyRows w)).dup = none ↔
      ∀ j k : Fin 4, j < k → classify w[j] ≠ classify w[k] := by
  simp only [lowestSet_eq_none_iff, ← Bool.not_eq_true, syncScan_dup, classifyRows_get,
    sharesRole_classifyRows_iff, hall, ne_eq, not_false_eq_true, true_and, not_exists, not_and]
  exact ⟨fun h j k hjk => h k j hjk, fun h k j hjk => h j k hjk⟩

/-- R69, `NO_MATCH` at the first row with no role. -/
theorem syncResult_of_unmatched {w : Rows} {i : Fin 4} (hi : classify w[i] = none)
    (hlt : ∀ j : Fin 4, j < i → classify w[j] ≠ none) :
    syncResult w =
      { Result.empty with
        status := statusNoMatch, errRow := rowIndexCode i,
        rowRole := Vector.ofFn fun j : Fin 4 => roleOutCode (assignedRole w j) } := by
  have hlow := lowestSet_noMatch_eq_some_iff.2 ⟨hi, hlt⟩
  simp only [syncResult, hlow, rowRoles_syncScan]
  rfl

/-- R69, `DUPLICATE_ROLE` at the first row whose role an earlier row has. -/
theorem syncResult_of_duplicate {w : Rows} {i : Fin 4}
    (hall : ∀ j : Fin 4, classify w[j] ≠ none)
    (hdup : ∃ j : Fin 4, j < i ∧ classify w[j] = classify w[i])
    (hfirst : ∀ j k : Fin 4, j < k → k < i → classify w[j] ≠ classify w[k]) :
    syncResult w =
      { Result.empty with
        status := statusDuplicateRole, errRow := rowIndexCode i,
        errRole := roleOutCode (classify w[i]),
        rowRole := Vector.ofFn fun j : Fin 4 => roleOutCode (assignedRole w j) } := by
  have hno := lowestSet_noMatch_eq_none_iff.2 hall
  have hlow := (lowestSet_dup_eq_some_iff hall).2 ⟨hdup, hfirst⟩
  simp only [syncResult, hno, hlow, rowRoles_syncScan, classifyRows_get]
  rfl

/-- Rows assigned to the four positions by a permutation are placed by it (R70). -/
theorem placeRows_get_of_perm {w : Rows} {asg : Vector (Option Role) 4} (e : Equiv.Perm (Fin 4))
    (h : ∀ i : Fin 4, asg[i] = some (canonicalRole (e i))) {i k : Fin 4} (hk : e i = k) :
    (placeRows w asg)[k] = w[i] := by
  have hpass : ∀ (g : Rows) (j : Fin 4),
      (placeRow w asg g j)[k] = if j = i then w[j] else g[k] := by
    intro g j
    have hj : e j = k ↔ j = i := by rw [← hk, e.apply_eq_iff_eq]
    rw [placeRow_get, h, Option.map_some, roleCode_canonicalRole_toNat]
    simp [← Fin.ext_iff, hj]
  simp only [placeRows, rowOrder, List.foldl_cons, List.foldl_nil, hpass]
  fin_cases i <;> rfl

/-- R68, success: row `i` takes position `e i`. -/
theorem syncResult_of_perm {w : Rows} (e : Equiv.Perm (Fin 4))
    (h : ∀ i : Fin 4, classify w[i] = some (canonicalRole (e i))) :
    syncResult w =
      { Result.empty with
        matched := true
        rowRole := Vector.ofFn fun i : Fin 4 => roleCode (canonicalRole (e i))
        groupOut := Vector.ofFn fun k : Fin 4 => w[e.symm k] } := by
  have hall : ∀ i : Fin 4, classify w[i] ≠ none := fun i => classify_ne_none_iff.2 ⟨e i, h i⟩
  have hdiff : ∀ j k : Fin 4, j < k → classify w[j] ≠ classify w[k] := by
    intro j k hjk he
    rw [h, h, Option.some_inj] at he
    exact hjk.ne (e.injective (canonicalRole_injective he))
  have hasg : ∀ i : Fin 4, assignedRole w i = some (canonicalRole (e i)) := fun i =>
    (assignedRole_of_first fun j hj => hdiff j i hj).trans (h i)
  have hplace : placeRows w (syncScan (classifyRows w)).asg =
      Vector.ofFn fun k : Fin 4 => w[e.symm k] := by
    refine vector_four_ext fun k => ?_
    rw [ofFn_get]
    exact placeRows_get_of_perm e
      (fun i => (syncScan_asg_eq_assignedRole w i).trans (hasg i)) (e.apply_symm_apply k)
  have hno := lowestSet_noMatch_eq_none_iff.2 hall
  have hlow := (lowestSet_dup_eq_none_iff hall).2 hdiff
  simp only [syncResult, hno, hlow, rowRoles_syncScan, hasg, hplace]
  rfl

/-- Four rows with four different roles hold each of A, B, C and D once. -/
theorem exists_perm_of_distinct_roles {w : Rows} (hall : ∀ i : Fin 4, classify w[i] ≠ none)
    (hdiff : ∀ j k : Fin 4, j < k → classify w[j] ≠ classify w[k]) :
    ∃ e : Equiv.Perm (Fin 4), ∀ i : Fin 4, classify w[i] = some (canonicalRole (e i)) := by
  choose f hf using fun i => classify_ne_none_iff.1 (hall i)
  have hinj : Function.Injective f := by
    intro j k hjk
    have he : classify w[j] = classify w[k] := by rw [hf, hf, hjk]
    rcases lt_trichotomy j k with hlt | heq | hgt
    · exact absurd he (hdiff j k hlt)
    · exact heq
    · exact absurd he.symm (hdiff k j hgt)
  exact ⟨Equiv.ofBijective f (Finite.injective_iff_bijective.1 hinj), hf⟩

/-- The three outcomes of a group (R68, R69): a first row with no role, or else a first row whose
role an earlier row has, or else each of A, B, C and D once. -/
theorem group_cases (w : Rows) :
    (∃ i : Fin 4, classify w[i] = none ∧ ∀ j : Fin 4, j < i → classify w[j] ≠ none) ∨
    (∃ i : Fin 4, (∀ j : Fin 4, classify w[j] ≠ none) ∧
      (∃ j : Fin 4, j < i ∧ classify w[j] = classify w[i]) ∧
      ∀ j k : Fin 4, j < k → k < i → classify w[j] ≠ classify w[k]) ∨
    (∃ e : Equiv.Perm (Fin 4), ∀ i : Fin 4, classify w[i] = some (canonicalRole (e i))) := by
  cases hno : lowestSet (syncScan (classifyRows w)).noMatch with
  | some i => exact .inl ⟨i, lowestSet_noMatch_eq_some_iff.1 hno⟩
  | none =>
    have hall := lowestSet_noMatch_eq_none_iff.1 hno
    cases hdup : lowestSet (syncScan (classifyRows w)).dup with
    | some i => exact .inr (.inl ⟨i, hall, (lowestSet_dup_eq_some_iff hall).1 hdup⟩)
    | none =>
      exact .inr (.inr (exists_perm_of_distinct_roles hall
        ((lowestSet_dup_eq_none_iff hall).1 hdup)))

end Sys2Proof.Machine

/-! Every request leaves a record that `FromRequest` describes; the statement on unnamed
fields. -/

namespace Sys2Proof.Machine

theorem genResult_fromCrc (r : Role) (d : Data) : (genResult r d).FromCrc :=
  ⟨roleCodeLegal_roleCode r, rfl⟩

theorem chkResult_fromCrc (r : Role) (d : Data) (c : Checkword) : (chkResult r d c).FromCrc :=
  ⟨roleCodeLegal_roleCode r, rfl⟩

theorem clsResult_fromRequest (w : Row) : (clsResult w).FromRequest := by
  cases h : classify w with
  | some r =>
    obtain ⟨hr, hsyn⟩ := classify_eq_some_iff.1 h
    rw [clsResult_of_classify_some h, hsyn]
    exact .inr (.inl ⟨r, mem_trialOrder_iff.2 hr, rfl⟩)
  | none =>
    have hsyn := classify_eq_none_iff.1 h
    rw [clsResult_of_classify_none h]
    exact .inr (.inr (.inl ⟨fun x hx => hsyn x (mem_trialOrder_iff.1 hx), rfl⟩))

/-- The scan leaves roles of the trial order or `NONE`, and no role at two rows (R68). -/
theorem rowRolesAssigned_of_assignedRole {r : Result} {w : Rows}
    (h : ∀ i : Fin 4, r.rowRole[i] = roleOutCode (assignedRole w i)) : r.RowRolesAssigned := by
  refine ⟨fun i => ?_, fun i j hij he => ?_⟩
  · rw [h]
    cases ha : assignedRole w i with
    | none => exact .inl rfl
    | some x =>
      have hx := (classify_eq_some_iff.1 (assignedRole_eq_some_iff.1 ha).1).1
      exact .inr ⟨x, mem_trialOrder_iff.2 hx, rfl⟩
  · rw [h, h] at he
    rw [h]
    cases ha : assignedRole w i with
    | none => rfl
    | some x =>
      rw [ha] at he
      have hj := (assignedRole_eq_some_iff.1 (roleOutCode_eq_roleCode_iff.1 he.symm)).2
      exact absurd (assignedRole_eq_some_iff.1 ha).1 (hj i hij)

/-- The `ROW_ROLE` that the scan leaves. -/
theorem assignedRoles_get (w : Rows) (i : Fin 4) :
    (Vector.ofFn fun j : Fin 4 => roleOutCode (assignedRole w j))[i] =
      roleOutCode (assignedRole w i) :=
  ofFn_get _ i

/-- `ROW_ROLE` shows a role at the first row of that role. -/
theorem roleOutCode_assignedRole_ne_roleNone {w : Rows} {i : Fin 4} (hi : classify w[i] ≠ none)
    (h : ∀ j : Fin 4, j < i → classify w[j] ≠ classify w[i]) :
    roleOutCode (assignedRole w i) ≠ roleNone := by
  rwa [assignedRole_of_first h, ne_eq, roleOutCode_eq_roleNone_iff]

theorem syncResult_fromSyncNoMatch {w : Rows} {i : Fin 4} (hi : classify w[i] = none)
    (hlt : ∀ j : Fin 4, j < i → classify w[j] ≠ none) : (syncResult w).FromSyncNoMatch := by
  rw [syncResult_of_unmatched hi hlt]
  refine ⟨rowRolesAssigned_of_assignedRole (assignedRoles_get w), ⟨i, rfl, ?_, fun h0 => ?_⟩, rfl⟩
  · rw [assignedRoles_get, roleOutCode_eq_roleNone_iff, assignedRole_eq_none_iff]
    exact .inl hi
  · rw [assignedRoles_get]
    exact roleOutCode_assignedRole_ne_roleNone (hlt 0 h0) fun k hk => absurd hk (Fin.not_lt_zero k)

theorem syncResult_fromSyncDuplicate {w : Rows} {i : Fin 4}
    (hall : ∀ j : Fin 4, classify w[j] ≠ none)
    (hdup : ∃ j : Fin 4, j < i ∧ classify w[j] = classify w[i])
    (hfirst : ∀ j k : Fin 4, j < k → k < i → classify w[j] ≠ classify w[k]) :
    (syncResult w).FromSyncDuplicate := by
  rw [syncResult_of_duplicate hall hdup hfirst]
  obtain ⟨j, hj, he⟩ := hdup
  refine ⟨rowRolesAssigned_of_assignedRole (assignedRoles_get w),
    ⟨i, rfl, ?_, fun k hk => ?_, j, hj, ?_⟩, rfl⟩
  · rw [assignedRoles_get, roleOutCode_eq_roleNone_iff, assignedRole_eq_none_iff]
    exact .inr ⟨j, hj, he⟩
  · rw [assignedRoles_get]
    exact roleOutCode_assignedRole_ne_roleNone (hall k) fun l hl => hfirst l k hl hk
  · rw [assignedRoles_get, assignedRole_of_first fun l hl => hfirst l j hl hj]
    exact congrArg roleOutCode he

theorem syncResult_fromSync {w : Rows} (e : Equiv.Perm (Fin 4))
    (h : ∀ i : Fin 4, classify w[i] = some (canonicalRole (e i))) : (syncResult w).FromSync := by
  rw [syncResult_of_perm e h]
  refine ⟨fun x hx => ?_, vector_four_ext fun k => ?_, rfl⟩
  · obtain ⟨k, rfl⟩ := ne_E_iff_exists_canonicalRole.1 (mem_trialOrder_iff.1 hx)
    refine ⟨e.symm k, ?_⟩
    rw [ofFn_get, e.apply_symm_apply]
  · rw [classifyRows_get, ofFn_get, h, e.apply_symm_apply]
    fin_cases k <;> rfl

theorem syncResult_fromRequest (w : Rows) : (syncResult w).FromRequest := by
  rcases group_cases w with ⟨i, hi, hlt⟩ | ⟨i, hall, hdup, hfirst⟩ | ⟨e, he⟩
  · exact .inr (.inr (.inr (.inr (.inl (syncResult_fromSyncNoMatch hi hlt)))))
  · exact .inr (.inr (.inr (.inr (.inr (.inl (syncResult_fromSyncDuplicate hall hdup hfirst))))))
  · exact .inr (.inr (.inr (.inl (syncResult_fromSync e he))))

theorem requestResult_fromRequest (i : Instr) (w : Rows) : (requestResult i w).FromRequest := by
  rcases instr_kind i with ⟨r, rfl⟩ | ⟨r, rfl⟩ | ⟨role, rfl⟩ | ⟨role, rfl⟩ | hill
  · rw [requestResult_genOf]
    exact .inl (genResult_fromCrc r _)
  · rw [requestResult_chkOf]
    exact .inl (chkResult_fromCrc r _ _)
  · exact clsResult_fromRequest w[0]
  · exact syncResult_fromRequest w
  · rw [requestResult_of_mem_illegalInstrs hill]
    exact .inr (.inr (.inr (.inr (.inr (.inr rfl)))))

/-- What a record's status says of its other fields (R18, R79). -/
theorem Result.FromRequest.fields_of_status {r : Result} (h : r.FromRequest) :
    (r.status ≠ statusOk →
      r.matched = false ∧ r.roleOut = roleNone ∧ r.groupOut = Result.empty.groupOut) ∧
    (r.status ≠ statusDuplicateRole → r.errRole = roleNone) ∧
    (r.status = statusOk → r.errRow = 0#2) := by
  rcases h with ⟨-, h⟩ | ⟨x, -, h⟩ | ⟨-, h⟩ | ⟨-, -, h⟩ | ⟨-, -, h⟩ | ⟨-, -, h⟩ | h
  case inl | inr.inl | inr.inr.inr.inl =>
    rw [h]
    exact ⟨fun hs => absurd rfl hs, fun _ => rfl, fun _ => rfl⟩
  case inr.inr.inl | inr.inr.inr.inr.inl =>
    rw [h]
    exact ⟨fun _ => ⟨rfl, rfl, rfl⟩, fun _ => rfl,
      fun hs => absurd hs (show statusNoMatch ≠ statusOk by decide)⟩
  case inr.inr.inr.inr.inr.inl =>
    rw [h]
    exact ⟨fun _ => ⟨rfl, rfl, rfl⟩, fun hs => absurd rfl hs,
      fun hs => absurd hs (show statusDuplicateRole ≠ statusOk by decide)⟩
  case inr.inr.inr.inr.inr.inr =>
    rw [h]
    exact ⟨fun _ => ⟨rfl, rfl, rfl⟩, fun _ => rfl,
      fun hs => absurd hs (show statusIllegalRole ≠ statusOk by decide)⟩

/-- SYNC writes no checkword and no role of a single row (R68, R69). -/
theorem syncResult_cwOut_roleOut (w : Rows) :
    (syncResult w).cwOut = 0#10 ∧ (syncResult w).roleOut = roleNone := by
  rcases group_cases w with ⟨i, hi, hlt⟩ | ⟨i, hall, hdup, hdiff⟩ | ⟨e, he⟩
  · rw [syncResult_of_unmatched hi hlt]
    exact ⟨rfl, rfl⟩
  · rw [syncResult_of_duplicate hall hdup hdiff]
    exact ⟨rfl, rfl⟩
  · rw [syncResult_of_perm e he]
    exact ⟨rfl, rfl⟩

/-- CLS writes no field of a group. -/
theorem clsResult_group_fields (w : Row) :
    (clsResult w).rowRole = Result.empty.rowRole ∧ (clsResult w).errRow = 0#2 ∧
      (clsResult w).groupOut = Result.empty.groupOut := by
  cases h : classify w with
  | some r =>
    rw [clsResult_of_classify_some h]
    exact ⟨rfl, rfl, rfl⟩
  | none =>
    rw [clsResult_of_classify_none h]
    exact ⟨rfl, rfl, rfl⟩

/-- Only SYNC writes the fields of a group. -/
theorem requestResult_group_fields {i : Instr} (h : ∀ role, i ≠ .sync role) (w : Rows) :
    (requestResult i w).rowRole = Result.empty.rowRole ∧ (requestResult i w).errRow = 0#2 ∧
      (requestResult i w).groupOut = Result.empty.groupOut := by
  rcases instr_kind i with ⟨r, rfl⟩ | ⟨r, rfl⟩ | ⟨role, rfl⟩ | ⟨role, rfl⟩ | hill
  · rw [requestResult_genOf]
    exact ⟨rfl, rfl, rfl⟩
  · rw [requestResult_chkOf]
    exact ⟨rfl, rfl, rfl⟩
  · exact clsResult_group_fields w[0]
  · exact absurd rfl (h role)
  · rw [requestResult_of_mem_illegalInstrs hill]
    exact ⟨rfl, rfl, rfl⟩

/-- Settles O17: the clauses on the status hold of every record of a request
(`Result.FromRequest.fields_of_status`), and the others are read off the record of each kind. -/
theorem unnamedFieldsAreEmpty : Obligations.UnnamedFieldsAreEmpty := by
  intro i s t ht
  rw [exec_eq_next_iff.1 ht, State.afterEdge_res]
  generalize s.inputs.rowIn = w
  obtain ⟨herr, hrole, hrow⟩ := (requestResult_fromRequest i w).fields_of_status
  refine ⟨fun h => ?_, ?_, herr, hrole, hrow, fun h => ?_, ?_, fun h => ?_⟩
  · obtain ⟨hroles, herrRow, -⟩ := requestResult_group_fields h w
    exact ⟨hroles, herrRow⟩
  · rintro ⟨role, rfl⟩
    exact syncResult_cwOut_roleOut w
  · obtain ⟨-, -, hgroup⟩ := requestResult_group_fields h w
    exact hgroup
  · rintro ⟨r, rfl⟩
    rw [requestResult_genOf]
    rfl
  · rw [requestResult_of_mem_illegalInstrs h]
    rfl

end Sys2Proof.Machine

/-! For each record that `FromRequest` describes a request that leaves it: the rows and the
command word are built from the record. -/

namespace Sys2Proof.Machine

/-! ### A data word for every checkword -/

/-- For each bit of a remainder a data word of which it is the whole remainder, `x^k · x^(-10)`
modulo `g(x)`. -/
def rawUnits : List (Data × Nat) :=
  [(0x0201#16, 0), (0x01BB#16, 1), (0x0376#16, 2), (0x0355#16, 3), (0x0313#16, 4), (0x039F#16, 5),
   (0x0287#16, 6), (0x00B7#16, 7), (0x016E#16, 8), (0x02DC#16, 9)]

/-- A data word with the given remainder. -/
def rawPreimage (c : Checkword) : Data :=
  rawUnits.foldl (fun d p => if c.getLsbD p.2 then d ^^^ p.1 else d) 0#16

theorem rawPreimage_xor (a b : Checkword) :
    rawPreimage (a ^^^ b) = rawPreimage a ^^^ rawPreimage b :=
  foldl_xorIf_xor rawUnits a b 0#16 0#16

theorem raw_rawPreimage (c : Checkword) : raw (rawPreimage c) = c := by
  refine xorAdditive_ext (f := fun c => raw (rawPreimage c)) (g := id) (fun a b => ?_)
    (fun _ _ => rfl) ?_ c
  · rw [rawPreimage_xor, raw_xor]
  · decide +kernel

theorem exists_checkword_eq (r : Role) (c : Checkword) : ∃ d, checkword d r = c := by
  refine ⟨rawPreimage (c ^^^ offsetRom r), ?_⟩
  rw [checkword, raw_rawPreimage, BitVec.xor_assoc, BitVec.xor_self, BitVec.xor_zero]

theorem exists_chkMatch_eq (c : Checkword) (b : Bool) : ∃ received, chkMatch c received = b := by
  cases b with
  | true => exact ⟨c, beq_self_eq_true c⟩
  | false =>
    have : Nontrivial Checkword := ⟨0#10, 1#10, by decide⟩
    obtain ⟨c', hc⟩ := exists_ne c
    exact ⟨c', beq_false_of_ne hc.symm⟩

/-! ### A row for every syndrome and for every class -/

theorem syndrome_mkRow_zero (c : Checkword) : syndrome (mkRow 0#16 c) = c := by
  have hraw : raw 0#16 = 0#10 := by decide +kernel
  rw [syndrome, rowCheckword_mkRow, rowData_mkRow, hraw, BitVec.xor_zero]

/-- A row of the given class; a row of role E stands for "no role". -/
def classRow (c : Option Role) : Row := mkRow 0#16 (offsetRom (c.getD .E))

theorem classify_classRow {c : Option Role} (h : c ≠ some .E) : classify (classRow c) = c := by
  cases c with
  | none =>
    refine classify_eq_none_iff.2 fun r hr he => hr ?_
    rw [classRow, syndrome_mkRow_zero] at he
    exact (offsetRom_injective he).symm
  | some r =>
    refine classify_eq_some_iff.2 ⟨fun hr => h (congrArg some hr), ?_⟩
    rw [classRow, syndrome_mkRow_zero]
    rfl

/-- Rows that show the roles of `v`, where `v` shows none a row of class `fill`. -/
def showRows (v : Vector RoleCode 4) (fill : Fin 4 → Option Role) : Rows :=
  Vector.ofFn fun i : Fin 4 => classRow ((roleOfCode? v[i]).or (fill i))

theorem classify_showRows_of_role {v : Vector RoleCode 4} {fill : Fin 4 → Option Role} {i : Fin 4}
    {x : Role} (hx : x ∈ trialOrder) (h : v[i] = roleCode x) :
    classify (showRows v fill)[i] = some x := by
  rw [showRows, ofFn_get, h, roleOfCode?_roleCode, Option.some_or]
  exact classify_classRow fun he => mem_trialOrder_iff.1 hx (Option.some_inj.1 he)

theorem classify_showRows_of_none {v : Vector RoleCode 4} {fill : Fin 4 → Option Role} {i : Fin 4}
    (h : v[i] = roleNone) (hfill : fill i ≠ some .E) :
    classify (showRows v fill)[i] = fill i := by
  have hnone : roleOfCode? roleNone = none := by decide
  rw [showRows, ofFn_get, h, hnone, Option.none_or]
  exact classify_classRow hfill

theorem Result.RowRolesAssigned.mem_trialOrder {r : Result} (hv : r.RowRolesAssigned) {i : Fin 4}
    {x : Role} (hx : r.rowRole[i] = roleCode x) : x ∈ trialOrder := by
  rcases hv.1 i with hnone | ⟨y, hy, hyi⟩
  · exact absurd (hx.symm.trans hnone) (roleCode_ne_roleNone x)
  · exact roleCode_injective (hx.symm.trans hyi) ▸ hy

theorem classify_showRows_ne_none {r : Result} {fill : Fin 4 → Option Role} {i : Fin 4}
    (hv : r.RowRolesAssigned) (hE : fill i ≠ some .E)
    (hfill : r.rowRole[i] = roleNone → fill i ≠ none) :
    classify (showRows r.rowRole fill)[i] ≠ none := by
  rcases hv.1 i with hnone | ⟨x, hx, hxi⟩
  · rw [classify_showRows_of_none hnone hE]
    exact hfill hnone
  · rw [classify_showRows_of_role hx hxi]
    exact Option.some_ne_none x

/-- The scan of rows that show an allowed `ROW_ROLE` assigns it again, when each row where it shows
`NONE` has no role or the role of an earlier row. -/
theorem assignedRoles_showRows {r : Result} {fill : Fin 4 → Option Role}
    (hv : r.RowRolesAssigned) (hE : ∀ i, fill i ≠ some .E)
    (hfill : ∀ i : Fin 4, r.rowRole[i] = roleNone →
      ∀ x, fill i = some x → ∃ j : Fin 4, j < i ∧ r.rowRole[j] = roleCode x) :
    (Vector.ofFn fun i : Fin 4 => roleOutCode (assignedRole (showRows r.rowRole fill) i)) =
      r.rowRole := by
  have hshown : ∀ (j : Fin 4) (x : Role), r.rowRole[j] = roleCode x →
      classify (showRows r.rowRole fill)[j] = some x :=
    fun j x hj => classify_showRows_of_role (hv.mem_trialOrder hj) hj
  obtain ⟨hcode, honce⟩ := hv
  have htaken : ∀ (j : Fin 4) (x : Role), classify (showRows r.rowRole fill)[j] = some x →
      ∃ k : Fin 4, k ≤ j ∧ r.rowRole[k] = roleCode x := by
    intro j x hj
    rcases hcode j with hnone | ⟨y, -, hyj⟩
    · rw [classify_showRows_of_none hnone (hE j)] at hj
      obtain ⟨k, hk, hkx⟩ := hfill j hnone x hj
      exact ⟨k, hk.le, hkx⟩
    · rw [hshown j y hyj, Option.some_inj] at hj
      exact ⟨j, le_rfl, hj ▸ hyj⟩
  refine vector_four_ext fun i => ?_
  rw [ofFn_get]
  rcases hcode i with hnone | ⟨x, -, hx⟩
  · rw [hnone, roleOutCode_eq_roleNone_iff, assignedRole_eq_none_iff,
      classify_showRows_of_none hnone (hE i)]
    cases hf : fill i with
    | none => exact .inl rfl
    | some x =>
      obtain ⟨j, hj, hjx⟩ := hfill i hnone x hf
      exact .inr ⟨j, hj, hshown j x hjx⟩
  · rw [hx, roleOutCode_eq_roleCode_iff, assignedRole_eq_some_iff]
    refine ⟨hshown i x hx, fun j hj he => ?_⟩
    obtain ⟨k, hk, hkx⟩ := htaken j x he
    have hsame := honce k i (hk.trans_lt hj) (hkx.trans hx.symm)
    exact roleCode_ne_roleNone x (hkx.symm.trans hsame)

/-! ### A request for every record -/

theorem exists_requestResult_of_fromCrc {r : Result} (h : r.FromCrc) :
    ∃ i w, requestResult i w = r := by
  obtain ⟨hlegal, hr⟩ := h
  obtain ⟨x, hx⟩ := exists_roleCode_of_roleCodeLegal hlegal
  obtain ⟨d, hd⟩ := exists_checkword_eq x r.cwOut
  obtain ⟨c, hc⟩ := exists_chkMatch_eq r.cwOut r.matched
  refine ⟨chkOf x, Vector.ofFn fun _ => mkRow d c, ?_⟩
  rw [requestResult_chkOf, Vector.getElem_ofFn, rowData_mkRow, rowCheckword_mkRow, chkResult, hd,
    hc, ← hx]
  exact hr.symm

theorem exists_requestResult_of_fromClsMatch {r : Result} (h : r.FromClsMatch) :
    ∃ i w, requestResult i w = r := by
  obtain ⟨x, hx, hr⟩ := h
  have hclass : classify (mkRow 0#16 (offsetRom x)) = some x :=
    classify_eq_some_iff.2 ⟨mem_trialOrder_iff.1 hx, syndrome_mkRow_zero _⟩
  refine ⟨.cls 0#3, Vector.ofFn fun _ => mkRow 0#16 (offsetRom x), ?_⟩
  rw [requestResult_cls, Vector.getElem_ofFn, clsResult_of_classify_some hclass,
    syndrome_mkRow_zero]
  exact hr.symm

theorem exists_requestResult_of_fromClsNoMatch {r : Result} (h : r.FromClsNoMatch) :
    ∃ i w, requestResult i w = r := by
  obtain ⟨hno, hr⟩ := h
  have hclass : classify (mkRow 0#16 r.cwOut) = none := by
    refine classify_eq_none_iff.2 fun x hx => ?_
    rw [syndrome_mkRow_zero]
    exact hno x (mem_trialOrder_iff.2 hx)
  refine ⟨.cls 0#3, Vector.ofFn fun _ => mkRow 0#16 r.cwOut, ?_⟩
  rw [requestResult_cls, Vector.getElem_ofFn, clsResult_of_classify_none hclass,
    syndrome_mkRow_zero]
  exact hr.symm

/-- The rows of a group in the order of a permutation: row `i` is row `π i`. -/
def reorderRows (g : Rows) (π : Equiv.Perm (Fin 4)) : Rows := Vector.ofFn fun i : Fin 4 => g[π i]

theorem reorderRows_get (g : Rows) (π : Equiv.Perm (Fin 4)) (i : Fin 4) :
    (reorderRows g π)[i] = g[π i] :=
  ofFn_get _ i

/-- Where each of A, B, C and D stands at some row, each row shows one of them: row `e k` shows the
role of position `k`. -/
theorem exists_perm_of_all_roles {v : Vector RoleCode 4}
    (h : ∀ x ∈ trialOrder, ∃ i : Fin 4, v[i] = roleCode x) :
    ∃ e : Equiv.Perm (Fin 4), ∀ k : Fin 4, v[e k] = roleCode (canonicalRole k) := by
  choose f hf using fun k => h (canonicalRole k) (mem_trialOrder_iff.2 (canonicalRole_ne_E k))
  have hinj : Function.Injective f := by
    intro j k hjk
    have he : roleCode (canonicalRole j) = roleCode (canonicalRole k) := by rw [← hf, ← hf, hjk]
    exact canonicalRole_injective (roleCode_injective he)
  exact ⟨Equiv.ofBijective f (Finite.injective_iff_bijective.1 hinj), hf⟩

theorem exists_requestResult_of_fromSync {r : Result} (h : r.FromSync) :
    ∃ i w, requestResult i w = r := by
  obtain ⟨hroles, hgroup, hr⟩ := h
  have hclass : ∀ k : Fin 4, classify r.groupOut[k] = some (canonicalRole k) := by
    intro k
    rw [← classifyRows_get, hgroup]
    fin_cases k <;> rfl
  obtain ⟨e, hf⟩ := exists_perm_of_all_roles hroles
  have hrow : (Vector.ofFn fun i : Fin 4 => roleCode (canonicalRole (e.symm i))) = r.rowRole := by
    refine vector_four_ext fun i => ?_
    obtain ⟨k, rfl⟩ := e.surjective i
    rw [ofFn_get, e.symm_apply_apply]
    exact (hf k).symm
  have hout : (Vector.ofFn fun k : Fin 4 => (reorderRows r.groupOut e.symm)[e.symm.symm k]) =
      r.groupOut := by
    refine vector_four_ext fun k => ?_
    rw [ofFn_get, reorderRows_get]
    exact congrArg (fun j : Fin 4 => r.groupOut[j]) (e.symm_apply_apply k)
  refine ⟨.sync 0#3, reorderRows r.groupOut e.symm, ?_⟩
  rw [requestResult_sync, syncResult_of_perm e.symm fun i => ?_, hrow, hout]
  · exact hr.symm
  · rw [reorderRows_get]
    exact hclass (e.symm i)

/-- For a record of `NO_MATCH` at row `i`: an earlier row without a role repeats row 0, and the
other rows without a role match none. -/
def fillNoMatch (v : Vector RoleCode 4) (i j : Fin 4) : Option Role :=
  if j < i then roleOfCode? v[(0 : Fin 4)] else none

theorem fillNoMatch_eq_some_iff {v : Vector RoleCode 4} {i j : Fin 4} {x : Role} :
    fillNoMatch v i j = some x ↔ j < i ∧ v[(0 : Fin 4)] = roleCode x := by
  unfold fillNoMatch
  split
  next h => simp [h, roleOfCode?_eq_some_iff]
  next h => simp [h]

theorem exists_requestResult_of_fromSyncNoMatch {r : Result} (h : r.FromSyncNoMatch) :
    ∃ i w, requestResult i w = r := by
  obtain ⟨hv, ⟨i, hrow, hi, h0⟩, hr⟩ := h
  have hE : ∀ j, fillNoMatch r.rowRole i j ≠ some .E := fun j hj =>
    mem_trialOrder_iff.1 (hv.mem_trialOrder (fillNoMatch_eq_some_iff.1 hj).2) rfl
  have hfill : ∀ j : Fin 4, r.rowRole[j] = roleNone → ∀ x, fillNoMatch r.rowRole i j = some x →
      ∃ k : Fin 4, k < j ∧ r.rowRole[k] = roleCode x := by
    intro j hj x hx
    have hzero := (fillNoMatch_eq_some_iff.1 hx).2
    refine ⟨0, Fin.pos_of_ne_zero ?_, hzero⟩
    rintro rfl
    exact roleCode_ne_roleNone x (hzero.symm.trans hj)
  have hunmatched : classify (showRows r.rowRole (fillNoMatch r.rowRole i))[i] = none := by
    rw [classify_showRows_of_none hi (hE i)]
    exact if_neg (lt_irrefl i)
  have hearlier : ∀ j : Fin 4, j < i →
      classify (showRows r.rowRole (fillNoMatch r.rowRole i))[j] ≠ none := by
    intro j hj
    obtain ⟨x, -, hx⟩ := (hv.1 0).resolve_left (h0 ((Fin.zero_le j).trans_lt hj))
    refine classify_showRows_ne_none hv (hE j) fun _ => ?_
    rw [fillNoMatch_eq_some_iff.2 ⟨hj, hx⟩]
    exact Option.some_ne_none x
  refine ⟨.sync 0#3, showRows r.rowRole (fillNoMatch r.rowRole i), ?_⟩
  rw [requestResult_sync, syncResult_of_unmatched hunmatched hearlier,
    assignedRoles_showRows hv hE hfill, ← hrow]
  exact hr.symm

theorem exists_requestResult_of_fromSyncDuplicate {r : Result} (h : r.FromSyncDuplicate) :
    ∃ i w, requestResult i w = r := by
  obtain ⟨hv, ⟨i, hrow, hi, hlt, j, hj, hjrole⟩, hr⟩ := h
  obtain ⟨x, hx, hjx⟩ := (hv.1 j).resolve_left (hlt j hj)
  have hxE : some x ≠ some Role.E := fun he => mem_trialOrder_iff.1 hx (Option.some_inj.1 he)
  have hfill : ∀ k : Fin 4, r.rowRole[k] = roleNone → ∀ y, some x = some y →
      ∃ l : Fin 4, l < k ∧ r.rowRole[l] = roleCode y := by
    rintro k hk y ⟨⟩
    have hik : i ≤ k := le_of_not_gt fun hki => hlt k hki hk
    exact ⟨j, hj.trans_le hik, hjx⟩
  have hall : ∀ k : Fin 4, classify (showRows r.rowRole fun _ => some x)[k] ≠ none := fun k =>
    classify_showRows_ne_none hv hxE fun _ => Option.some_ne_none x
  have hclass : classify (showRows r.rowRole fun _ => some x)[i] = some x :=
    classify_showRows_of_none hi hxE
  have hdup : classify (showRows r.rowRole fun _ => some x)[j] =
      classify (showRows r.rowRole fun _ => some x)[i] := by
    rw [classify_showRows_of_role hx hjx, hclass]
  have hfirst : ∀ k l : Fin 4, k < l → l < i →
      classify (showRows r.rowRole fun _ => some x)[k] ≠
        classify (showRows r.rowRole fun _ => some x)[l] := by
    intro k l hkl hli he
    obtain ⟨y, hy, hky⟩ := (hv.1 k).resolve_left (hlt k (hkl.trans hli))
    obtain ⟨z, hz, hlz⟩ := (hv.1 l).resolve_left (hlt l hli)
    rw [classify_showRows_of_role hy hky, classify_showRows_of_role hz hlz, Option.some_inj] at he
    have hsame : r.rowRole[k] = r.rowRole[l] := by rw [hky, hlz, he]
    exact hlt k (hkl.trans hli) (hv.2 k l hkl hsame)
  have herr : roleOutCode (some x) = r.errRole := hjx.symm.trans hjrole
  refine ⟨.sync 0#3, showRows r.rowRole fun _ => some x, ?_⟩
  rw [requestResult_sync, syncResult_of_duplicate hall ⟨j, hj, hdup⟩ hfirst,
    assignedRoles_showRows hv (fun _ => hxE) hfill, hclass, herr, ← hrow]
  exact hr.symm

/-- Some state presents any rows to any instruction, so the records left are those of
`requestResult`. -/
theorem exists_exec_iff {r : Result} :
    (∃ (i : Instr) (s t : State), exec i s = .next t ∧ t.res = r) ↔
      ∃ i w, requestResult i w = r := by
  constructor
  · rintro ⟨i, s, t, ht, rfl⟩
    exact ⟨i, s.inputs.rowIn, by rw [exec_eq_next_iff.1 ht, State.afterEdge_res]⟩
  · rintro ⟨i, w, rfl⟩
    exact ⟨i, { State.reset with upcoming := [requestInputs 0#5 w] }, _, exec_eq_next_iff.2 rfl,
      rfl⟩

/-- Settles O48: a request leaves only such records (`requestResult_fromRequest`), and for each kind
of record a request is built from its fields. -/
theorem requestRecordsAreExact : Obligations.RequestRecordsAreExact := by
  intro r
  rw [exists_exec_iff]
  constructor
  · rintro (h | h | h | h | h | h | h)
    · exact exists_requestResult_of_fromCrc h
    · exact exists_requestResult_of_fromClsMatch h
    · exact exists_requestResult_of_fromClsNoMatch h
    · exact exists_requestResult_of_fromSync h
    · exact exists_requestResult_of_fromSyncNoMatch h
    · exact exists_requestResult_of_fromSyncDuplicate h
    · exact ⟨.illegalGen101, Vector.replicate 4 0#26, h.symm⟩
  · rintro ⟨i, w, rfl⟩
    exact requestResult_fromRequest i w

end Sys2Proof.Machine

/-! The memory chapter's statements: the offset ROM read by code (R27, R29), the serial form of a row
and of a group (R33), and what a run over placed inputs remembers (R38). -/

namespace Sys2Proof.Machine

/-! ### The offset ROM -/

theorem exists_roleCode_iff_toNat_le {c : RoleCode} : (∃ r, c = roleCode r) ↔ c.toNat ≤ 4 := by
  have hlegal : roleCodeLegal c = true ↔ c.toNat ≤ 4 := decide_eq_true_iff
  rw [← hlegal]
  constructor
  · rintro ⟨r, rfl⟩
    exact roleCodeLegal_roleCode r
  · exact exists_roleCode_of_roleCodeLegal

theorem roleOfCode?_eq_none_iff {c : RoleCode} : roleOfCode? c = none ↔ 4 < c.toNat := by
  rw [← not_le, ← exists_roleCode_iff_toNat_le, Option.eq_none_iff_forall_ne_some]
  simp only [ne_eq, roleOfCode?_eq_some_iff, not_exists]

@[simp] theorem memReadOffsetRom_roleCode (r : Role) :
    memReadOffsetRom (roleCode r) = .ok (offsetRom r) := by
  simp [memReadOffsetRom]

theorem memReadOffsetRom_of_no_entry {c : RoleCode} (h : 4 < c.toNat) :
    memReadOffsetRom c = .error (.noOffsetEntry c) := by
  simp [memReadOffsetRom, roleOfCode?_eq_none_iff.2 h]

/-- Settles O24: the codes up to 4 are the role codes, and a code above them is no role's. -/
theorem offsetRomHoldsFiveWords : Obligations.OffsetRomHoldsFiveWords := by
  refine ⟨memReadOffsetRom_roleCode, fun c => ⟨?_, fun hc => ?_⟩,
    fun c => memReadOffsetRom_of_no_entry, fun r r' h => offsetRom_injective h⟩
  · rintro ⟨v, hv⟩
    by_contra hc
    rw [memReadOffsetRom_of_no_entry (not_le.1 hc)] at hv
    cases hv
  · obtain ⟨r, rfl⟩ := exists_roleCode_iff_toNat_le.2 hc
    exact ⟨_, memReadOffsetRom_roleCode r⟩

/-! ### The serial form of a row -/

theorem rowToSerial_eq_map_range (w : Row) :
    rowToSerial w = (List.range 26).map fun k => w.getLsbD (25 - k) := rfl

@[simp] theorem length_rowToSerial (w : Row) : (rowToSerial w).length = 26 := rfl

theorem rowToSerial_getElem? (w : Row) {k : Nat} (hk : k < 26) :
    (rowToSerial w)[k]? = some (w.getLsbD (25 - k)) := by
  simp [rowToSerial_eq_map_range, hk]

theorem rowToSerial_injective : Function.Injective rowToSerial := by
  intro w v h
  refine BitVec.eq_of_getLsbD_eq fun i hi => ?_
  have hbit := congrArg (·[25 - i]?) h
  simpa [rowToSerial_getElem? _ (show 25 - i < 26 by omega), show 25 - (25 - i) = i by omega]
    using hbit

theorem getLsbD_serialStep_zero (w : Row) (c : Bool) : (serialStep w c).getLsbD 0 = c := by
  cases c <;> simp [serialStep]

theorem getLsbD_serialStep_succ (w : Row) (c : Bool) {i : Nat} (hi : i + 1 < 26) :
    (serialStep w c).getLsbD (i + 1) = w.getLsbD i := by
  have hi' : i < 26 := by omega
  cases c <;> simp [serialStep, hi, BitVec.getLsbD_eq_getElem hi']

/-- Characters read one after another stand in the row from its low end, the last at bit 0. -/
theorem getLsbD_foldl_serialStep (cs : List Bool) {i : Nat} (hi : i < 26) :
    (cs.foldl serialStep 0#26).getLsbD i = cs.reverse[i]?.getD false := by
  induction cs using List.reverseRecOn generalizing i with
  | nil => simp
  | append_singleton cs c ih =>
    rw [List.foldl_append, List.reverse_append]
    cases i with
    | zero => exact getLsbD_serialStep_zero _ c
    | succ i => exact (getLsbD_serialStep_succ _ c hi).trans (ih (by omega))

theorem rowToSerial_foldl_serialStep {cs : List Bool} (h : cs.length = 26) :
    rowToSerial (cs.foldl serialStep 0#26) = cs := by
  refine List.ext_getElem (by simp [h]) fun k hk hk' => ?_
  rw [length_rowToSerial] at hk
  apply Option.some_inj.1
  rw [← List.getElem?_eq_getElem, rowToSerial_getElem? _ hk, getLsbD_foldl_serialStep _ (by omega),
    List.getElem?_reverse (by omega), show cs.length - 1 - (25 - k) = k by omega]
  simp [hk']

/-- A string is read as a row exactly when it is that row's string. -/
theorem rowOfSerial?_eq_some_iff {cs : List Bool} {w : Row} :
    rowOfSerial? cs = some w ↔ rowToSerial w = cs := by
  constructor
  · intro h
    obtain ⟨hlen, hw⟩ := Option.ite_none_right_eq_some.1 h
    rw [← Option.some_inj.1 hw, rowToSerial_foldl_serialStep hlen]
  · rintro rfl
    have hback := rowToSerial_injective (rowToSerial_foldl_serialStep (length_rowToSerial w))
    rw [rowOfSerial?, if_pos (length_rowToSerial w), hback]

/-- Settles O25, by `rowToSerial_getElem?` and `rowOfSerial?_eq_some_iff`. -/
theorem serialRowRoundTrip : Obligations.SerialRowRoundTrip :=
  ⟨fun w => ⟨length_rowToSerial w, fun k => rowToSerial_getElem? w k.isLt⟩,
    fun _ => rowOfSerial?_eq_some_iff.2 rfl, fun _ _ => rowOfSerial?_eq_some_iff.1⟩

/-! ### The serial form of a group -/

theorem length_groupToSerial (w : Rows) : (groupToSerial w).length = 104 := rfl

theorem take_drop_groupToSerial (w : Rows) (i : Fin 4) :
    ((groupToSerial w).drop (26 * i.val)).take 26 = rowToSerial w[i] := by
  fin_cases i <;> rfl

theorem groupToSerial_getElem? (w : Rows) (i : Fin 4) {k : Nat} (hk : k < 26) :
    (groupToSerial w)[26 * i.val + k]? = (rowToSerial w[i])[k]? := by
  rw [← take_drop_groupToSerial, List.getElem?_take_of_lt hk, List.getElem?_drop]

theorem groupOfSerial?_eq_some_iff_rows {cs : List Bool} {w : Rows} :
    groupOfSerial? cs = some w ↔
      rowOfSerial? (cs.take 26) = some w[0] ∧ rowOfSerial? ((cs.drop 26).take 26) = some w[1] ∧
        rowOfSerial? ((cs.drop 52).take 26) = some w[2] ∧
        rowOfSerial? (cs.drop 78) = some w[3] := by
  constructor
  · intro h
    unfold groupOfSerial? at h
    split at h
    · next h0 h1 h2 h3 =>
      cases h
      exact ⟨h0, h1, h2, h3⟩
    · cases h
  · rintro ⟨h0, h1, h2, h3⟩
    rw [groupOfSerial?, h0, h1, h2, h3]
    exact congrArg some (vector_four_eta w).symm

/-- A string is read as a group exactly when it is that group's string. -/
theorem groupOfSerial?_eq_some_iff {cs : List Bool} {w : Rows} :
    groupOfSerial? cs = some w ↔ groupToSerial w = cs := by
  simp only [groupOfSerial?_eq_some_iff_rows, rowOfSerial?_eq_some_iff]
  constructor
  · rintro ⟨h0, h1, h2, h3⟩
    have h52 : cs.drop 52 = (cs.drop 26).drop 26 := by rw [List.drop_drop]
    have h78 : cs.drop 78 = (cs.drop 52).drop 26 := by rw [List.drop_drop]
    rw [groupToSerial, h0, h1, h2, h3, h78, List.append_assoc, List.take_append_drop, h52,
      List.append_assoc, List.take_append_drop, List.take_append_drop]
  · rintro rfl
    have hrow := take_drop_groupToSerial w
    exact ⟨(hrow 0).symm, (hrow 1).symm, (hrow 2).symm, (hrow 3).symm⟩

theorem lineOfSerialGroup?_groupToSerial (w : Rows) :
    lineOfSerialGroup? (groupToSerial w) = some (.sync w[0] w[1] w[2] w[3]) := by
  rw [lineOfSerialGroup?, groupOfSerial?_eq_some_iff.2 rfl, Option.map_some]

/-- Settles O47: the characters come from the rows' strings, and the line read back is the SYNC of the
group's rows in their order. -/
theorem serialGroupBecomesSyncRequest : Obligations.SerialGroupBecomesSyncRequest := by
  refine ⟨fun w => ⟨length_groupToSerial w, fun i k => ?_, ?_⟩,
    fun _ => groupOfSerial?_eq_some_iff.2 rfl, fun _ _ => groupOfSerial?_eq_some_iff.1⟩
  · rw [groupToSerial_getElem? w i k.isLt, rowToSerial_getElem? _ k.isLt]
  · refine ⟨_, _, 0#3, lineOfSerialGroup?_groupToSerial w, rfl, ⟨rfl, rfl⟩,
      (Laws.RoundTrip.sync 0#3).2, fun i => ?_⟩
    exact congrArg (·[i]) (vector_four_eta w).symm

/-! ### Runs over placed inputs -/

/-- The output registers: `RSP_VALID` and `Res` (R11). -/
def State.outputs (s : State) : Bool × Result := (s.rspValid, s.res)

/-- The output registers after an edge with inputs `e`, before it `p` (R23). -/
def edgeOutputs (p : Bool × Result) (e : Inputs) : Bool × Result := (edgeValid e, edgeResult e p.2)

/-- A run over placed inputs takes the output registers through their edges in order (R38). -/
theorem outputs_of_run {es : List Inputs} (rest : List Inputs) {s t : State}
    (hup : s.upcoming = es ++ rest)
    (hrun : Sys2Proof.core.run es.length s = .next t) :
    t.outputs = es.foldl edgeOutputs s.outputs := by
  induction es generalizing s with
  | nil =>
    cases hrun
    rfl
  | cons e es ih =>
    have hin : s.inputs = e := State.inputs_of_upcoming hup
    rw [List.length_cons, run_succ, hin] at hrun
    exact ih (by rw [State.afterEdge_upcoming, hup]; rfl) hrun

/-- A reset edge or a request overwrites the output registers whatever they held (R21, R38). -/
theorem edgeOutputs_of_effective {e : Inputs} (he : e.Effective) (p q : Bool × Result) :
    edgeOutputs p e = edgeOutputs q e := by
  rcases he with hrst | hreq
  · simp [edgeOutputs, edgeResult, hrst]
  · simp [edgeOutputs, edgeResult, hreq]

theorem foldl_edgeOutputs_of_effective {e : Inputs} (he : e.Effective) (past past' es : List Inputs)
    (p q : Bool × Result) :
    (past ++ e :: es).foldl edgeOutputs p = (past' ++ e :: es).foldl edgeOutputs q := by
  simp only [List.foldl_append, List.foldl_cons]
  rw [edgeOutputs_of_effective he]

/-- Settles O46: the outputs of a run are a fold over its edges, which forgets what comes before an
effective edge. -/
theorem runForgetsBeforeLastEffectiveEdge : Obligations.RunForgetsBeforeLastEffectiveEdge := by
  intro s s' t t' past past' idles e he _ hrun hrun'
  have hsame : t.outputs = t'.outputs := by
    rw [outputs_of_run [] (by simp) hrun, outputs_of_run [] (by simp) hrun']
    exact foldl_edgeOutputs_of_effective he past past' idles _ _
  obtain ⟨hvalid, hres⟩ := Prod.mk.inj hsame
  exact ⟨hres, hvalid⟩

end Sys2Proof.Machine

/-! The encoding chapter's statements: command words and requests (R42 to R45, R49), the inputs an
operation ignores (R48), assembler lines (R51, R52), and the invariant on the codes shown (R44,
R46). -/

namespace Sys2Proof.Machine

/-! ### Command words -/

@[simp] theorem opField_append (role : RoleCode) (op : BitVec 2) : opField (role ++ op) = op :=
  BitVec.extractLsb'_append_eq_right

@[simp] theorem roleField_append (role : RoleCode) (op : BitVec 2) :
    roleField (role ++ op) = role :=
  BitVec.extractLsb'_append_eq_left

/-- A command word is its role field above its operation field (R43). -/
theorem roleField_append_opField (c : CmdWord) : roleField c ++ opField c = c :=
  BitVec.extractLsb'_append_extractLsb' (w := 3) (len := 2)

theorem decode_append_00 (role : RoleCode) : decode (role ++ 0b00#2) = decodeGen role := by
  simp [decode]

theorem decode_append_01 (role : RoleCode) : decode (role ++ 0b01#2) = decodeChk role := by
  simp [decode]

theorem decode_append_10 (role : RoleCode) : decode (role ++ 0b10#2) = .cls role := by
  simp [decode]

theorem decode_append_11 (role : RoleCode) : decode (role ++ 0b11#2) = .sync role := by
  simp [decode]

theorem decodeGen_roleCode (r : Role) : decodeGen (roleCode r) = genOf r := by
  rw [decodeGen, roleOfCode?_roleCode]
  cases r <;> rfl

theorem decodeChk_roleCode (r : Role) : decodeChk (roleCode r) = chkOf r := by
  rw [decodeChk, roleOfCode?_roleCode]
  cases r <;> rfl

/-- The word of GEN under a role (R45). -/
theorem decode_genWord (r : Role) : decode (roleCode r ++ 0b00#2) = genOf r :=
  (decode_append_00 _).trans (decodeGen_roleCode r)

/-- The word of CHK against a role (R45). -/
theorem decode_chkWord (r : Role) : decode (roleCode r ++ 0b01#2) = chkOf r :=
  (decode_append_01 _).trans (decodeChk_roleCode r)

theorem op_cases (op : BitVec 2) : op = 0b00#2 ∨ op = 0b01#2 ∨ op = 0b10#2 ∨ op = 0b11#2 := by
  revert op
  decide

theorem decodeGen_mem_illegalInstrs_iff {role : RoleCode} :
    decodeGen role ∈ illegalInstrs ↔ role = 0b101#3 ∨ role = 0b110#3 ∨ role = 0b111#3 := by
  revert role
  decide

theorem decodeChk_mem_illegalInstrs_iff {role : RoleCode} :
    decodeChk role ∈ illegalInstrs ↔ role = 0b101#3 ∨ role = 0b110#3 ∨ role = 0b111#3 := by
  revert role
  decide

/-- The six illegal words: GEN and CHK under a code that names no role (R49). -/
theorem decode_mem_illegalInstrs_iff {c : CmdWord} :
    decode c ∈ illegalInstrs ↔
      (opField c = 0b00#2 ∨ opField c = 0b01#2) ∧
        (roleField c = 0b101#3 ∨ roleField c = 0b110#3 ∨ roleField c = 0b111#3) := by
  conv_lhs => rw [← roleField_append_opField c]
  rcases op_cases (opField c) with h | h | h | h <;> rw [h]
  · simp [decode_append_00, decodeGen_mem_illegalInstrs_iff]
  · simp [decode_append_01, decodeChk_mem_illegalInstrs_iff]
  · simp [decode_append_10, illegalInstrs]
  · simp [decode_append_11, illegalInstrs]

@[simp] theorem decode_encode (i : Instr) : decode (encode i) = i := by
  cases i with
  | cls role => exact decode_append_10 role
  | sync role => exact decode_append_11 role
  | _ => rfl

theorem encode_decodeGen (role : RoleCode) : encode (decodeGen role) = role ++ 0b00#2 := by
  revert role
  decide

theorem encode_decodeChk (role : RoleCode) : encode (decodeChk role) = role ++ 0b01#2 := by
  revert role
  decide

@[simp] theorem encode_decode (c : CmdWord) : encode (decode c) = c := by
  rw [← roleField_append_opField c]
  rcases op_cases (opField c) with h | h | h | h <;> rw [h]
  · rw [decode_append_00, encode_decodeGen]
  · rw [decode_append_01, encode_decodeChk]
  · rw [decode_append_10, encode]
  · rw [decode_append_11, encode]

/-- Settles O21: the first clause is `decode_mem_illegalInstrs_iff`, and an illegal word's record is
`ILLEGAL_ROLE` beside `Res0`. -/
theorem commandWordMap : Obligations.CommandWordMap := by
  refine ⟨fun c => decode_mem_illegalInstrs_iff, fun r => ⟨decode_genWord r, decode_chkWord r⟩,
    fun role => ⟨decode_append_10 role, decode_append_11 role⟩, fun s hacc hill => ?_⟩
  exact ⟨_, (step_eq_next_iff_of_accepted hacc).2 rfl, rfl,
    requestResult_of_mem_illegalInstrs hill _, rfl⟩

/-! ### Whole requests -/

open BitVec in
/-- The fields are read back from the word they were laid out in (log 5): what is laid above a field
is skipped, and what is laid below it is the field's place. -/
@[simp] theorem splitRequest_joinRequest (cmd : CmdWord) (w : Rows) :
    splitRequest (joinRequest cmd w) = { cmd := cmd, rowIn := w } := by
  have hrow3 : (joinRequest cmd w).extractLsb' 83 26 = w[3] := extractLsb'_append_eq_left
  have hskip3 (start len : Nat) (h : start + len ≤ 83) : (joinRequest cmd w).extractLsb' start len =
      (w[2] ++ (w[1] ++ (w[0] ++ cmd))).extractLsb' start len := extractLsb'_append_eq_of_add_le h
  have hrow2 : (joinRequest cmd w).extractLsb' 57 26 = w[2] :=
    (hskip3 57 26 (by decide)).trans extractLsb'_append_eq_left
  have hskip2 (start len : Nat) (h : start + len ≤ 57) : (joinRequest cmd w).extractLsb' start len =
      (w[1] ++ (w[0] ++ cmd)).extractLsb' start len :=
    (hskip3 start len (by omega)).trans (extractLsb'_append_eq_of_add_le h)
  have hrow1 : (joinRequest cmd w).extractLsb' 31 26 = w[1] :=
    (hskip2 31 26 (by decide)).trans extractLsb'_append_eq_left
  have hskip1 (start len : Nat) (h : start + len ≤ 31) : (joinRequest cmd w).extractLsb' start len =
      (w[0] ++ cmd).extractLsb' start len :=
    (hskip2 start len (by omega)).trans (extractLsb'_append_eq_of_add_le h)
  have hrow0 : (joinRequest cmd w).extractLsb' 5 26 = w[0] :=
    (hskip1 5 26 (by decide)).trans extractLsb'_append_eq_left
  have hcmd : (joinRequest cmd w).extractLsb' 0 5 = cmd :=
    (hskip1 0 5 (by decide)).trans extractLsb'_append_eq_right
  simp only [splitRequest, hcmd, hrow0, hrow1, hrow2, hrow3, ← vector_four_eta w]

/-- The bits of a word up to some place, with the bits above it put on again. -/
theorem extractLsb'_append_extractLsb'_zero {n : Nat} (q : BitVec n) (k l : Nat) :
    q.extractLsb' k l ++ q.extractLsb' 0 k = q.extractLsb' 0 (l + k) :=
  BitVec.extractLsb'_append_extractLsb'_eq_extractLsb' k.zero_add.symm

/-- A request word is its fields, laid out again (log 5). -/
@[simp] theorem joinRequest_splitRequest (q : RequestWord) :
    joinRequest (splitRequest q).cmd (splitRequest q).rowIn = q := by
  change q.extractLsb' 83 26 ++ (q.extractLsb' 57 26 ++ (q.extractLsb' 31 26 ++
    (q.extractLsb' 5 26 ++ q.extractLsb' 0 5))) = q
  iterate 4 rw [extractLsb'_append_extractLsb'_zero]
  exact BitVec.extractLsb'_eq_self

/-- Settles O23: the command word and the layout of a request each round-trip. -/
theorem requestRoundTrip : Obligations.RequestRoundTrip := by
  refine ⟨fun i w _ => ?_, fun q => ?_⟩
  · rw [decodeRequest, encodeRequest, splitRequest_joinRequest, decode_encode]
  · rw [decodeRequest, encodeRequest, encode_decode, joinRequest_splitRequest]

theorem requestOfNat_of_lt {n : Nat} (h : n < 2 ^ 109) :
    requestOfNat n = .ok (BitVec.ofNat 109 n) := if_pos h

theorem requestOfNat_of_not_lt {n : Nat} (h : ¬ n < 2 ^ 109) :
    requestOfNat n = .error .widerThanRequest := if_neg h

/-- The decoder reads an instruction exactly from a number that fits a request (log 5). -/
theorem decodeTableWord_eq_some_iff {nbits w : Nat} {i : Instr} :
    decodeTableWord nbits w = some i ↔ w % 2 ^ nbits < 2 ^ 109 ∧
      decode (splitRequest (BitVec.ofNat 109 (w % 2 ^ nbits))).cmd = i := by
  by_cases h : w % 2 ^ nbits < 2 ^ 109
  · simp only [decodeTableWord, requestOfNat_of_lt h, decodeRequest, Option.some_inj, h, true_and]
  · simp only [decodeTableWord, requestOfNat_of_not_lt h, h, false_and, reduceCtorEq]

/-- No term is ill-formed: every term of `Instr` is a command word (R49). -/
theorem instr_wf (i : Instr) : i.wf = true := by
  cases i <;> rfl

/-- Settles O3: the placed request is an accepted one, whose command word is the one the decoder
reads. -/
theorem placedTableWordRunsNext : Obligations.PlacedTableWordRunsNext := by
  intro s nbits w i h
  obtain ⟨-, hdec⟩ := decodeTableWord_eq_some_iff.1 h
  obtain ⟨hrun, -⟩ :=
    stepRunsDecodedRequest (s.withFetchWord nbits w) i _ _ _ (instr_wf i) hdec rfl
  exact hrun

/-- `CMD` stands in the low bits of a request, so an instruction's command word alone is read as
that instruction (R43, log 5). -/
theorem decodeTableWord_encode (i : Instr) : decodeTableWord 8 (encode i).toNat = some i := by
  have hlt : (encode i).toNat < 2 ^ 5 := (encode i).isLt
  have hmod : (encode i).toNat % 2 ^ 8 = (encode i).toNat := Nat.mod_eq_of_lt (by omega)
  have hcmd : (splitRequest (BitVec.ofNat 109 (encode i).toNat)).cmd = encode i := by
    rw [BitVec.ofNat_toNat]
    exact (BitVec.extractLsb'_setWidth_of_le (show 0 + 5 ≤ 109 by decide)).trans
      BitVec.extractLsb'_eq_self
  refine decodeTableWord_eq_some_iff.2 ⟨by omega, ?_⟩
  rw [hmod, hcmd, decode_encode]

/-- Settles O22: each of the nine numbers is the command word that `encode` gives its
instruction. -/
theorem tableWordsDecode : Obligations.TableWordsDecode :=
  ⟨decodeTableWord_encode .genA, decodeTableWord_encode .genD, decodeTableWord_encode .chkB,
    decodeTableWord_encode .chkE, decodeTableWord_encode (.cls 0b000#3),
    decodeTableWord_encode (.cls 0b111#3), decodeTableWord_encode (.sync 0b001#3),
    decodeTableWord_encode .illegalGen101, decodeTableWord_encode .illegalChk111⟩

/-! ### Ignored inputs -/

/-- Settles O19: each kind's record is a function of the operands that R48 lets it read. -/
theorem ignoredInputsDoNotMatter : Obligations.IgnoredInputsDoNotMatter := by
  intro s s' t t'
  simp only [exec_eq_next_iff]
  refine ⟨?_, ?_, ?_, ?_⟩
  · rintro r hdata rfl rfl
    rw [State.afterEdge_res, State.afterEdge_res, requestResult_genOf, requestResult_genOf, hdata]
  · rintro r hrow rfl rfl
    rw [State.afterEdge_res, State.afterEdge_res, requestResult_chkOf, requestResult_chkOf, hrow]
  · rintro role role' hrow rfl rfl
    rw [State.afterEdge_res, State.afterEdge_res, requestResult_cls, requestResult_cls, hrow]
  · rintro role role' hrows rfl rfl
    rw [State.afterEdge_res, State.afterEdge_res, requestResult_sync, requestResult_sync, hrows]

/-! ### Assembler lines -/

theorem nopInputs_idle : nopInputs.Idle := ⟨rfl, rfl⟩

theorem requestInputs_accepted (cmd : CmdWord) (w : Rows) : (requestInputs cmd w).Accepted :=
  ⟨rfl, rfl⟩

/-- Settles O26: a line's edges are those of `assembleLine`, and the command words of R51 decode to
the operations they name. -/
theorem assemblerLinesBecomeEdges : Obligations.AssemblerLinesBecomeEdges := by
  refine ⟨fun r d => ?gen, fun r d c => ?chk, fun d c => ?cls, fun a b c d => ?sync,
    fun x a b c d => ?req, ?nop, ?reset, fun n => ?wait⟩
  case gen => exact ⟨_, rfl, requestInputs_accepted _ _, decode_genWord r, rfl⟩
  case chk => exact ⟨_, rfl, requestInputs_accepted _ _, decode_chkWord r, rfl⟩
  case cls => exact ⟨_, rfl, requestInputs_accepted _ _, decode_append_10 _, rfl⟩
  case sync => exact ⟨_, rfl, requestInputs_accepted _ _, decode_append_11 _, rfl⟩
  case req => exact ⟨_, rfl, requestInputs_accepted _ _, rfl, rfl⟩
  case nop => exact ⟨_, rfl, nopInputs_idle⟩
  case reset => exact ⟨_, rfl, rfl⟩
  case wait =>
    refine ⟨List.length_replicate, fun e he => ?_⟩
    rw [List.eq_of_mem_replicate he]
    exact nopInputs_idle

/-! ### The invariant -/

theorem roleCodeShown_of_legal {c : RoleCode} (h : roleCodeLegal c = true) :
    roleCodeShown c = true := by
  rw [roleCodeShown, h, Bool.true_or]

theorem roleCodeShown_roleCode (r : Role) : roleCodeShown (roleCode r) = true :=
  roleCodeShown_of_legal (roleCodeLegal_roleCode r)

theorem roleCodeShown_roleNone : roleCodeShown roleNone = true := by decide

theorem emptyRowRole_shown (i : Fin 4) : roleCodeShown Result.empty.rowRole[i] = true := by
  revert i
  decide

/-- The scan of SYNC leaves codes that the block shows (R44). -/
theorem Result.RowRolesAssigned.shown {r : Result} (h : r.RowRolesAssigned) (i : Fin 4) :
    roleCodeShown r.rowRole[i] = true := by
  obtain ⟨hroles, -⟩ := h
  rcases hroles i with hi | ⟨x, -, hi⟩ <;> rw [hi]
  · exact roleCodeShown_roleNone
  · exact roleCodeShown_roleCode x

/-- Each row of a group that synchronized shows one of the roles A to D (R70). -/
theorem Result.FromSync.rowRole_shown {r : Result} (h : r.FromSync) (i : Fin 4) :
    roleCodeShown r.rowRole[i] = true := by
  obtain ⟨hroles, -, -⟩ := h
  obtain ⟨e, he⟩ := exists_perm_of_all_roles hroles
  obtain ⟨k, rfl⟩ := e.surjective i
  rw [he k]
  exact roleCodeShown_roleCode _

/-- A record of a request shows no reserved code (R44, R46). -/
theorem Result.FromRequest.codesShown {r : Result} (h : r.FromRequest) : r.CodesShown := by
  rcases h with ⟨hrole, h⟩ | ⟨x, -, h⟩ | ⟨-, h⟩ | hsync | ⟨hassigned, -, h⟩ |
    ⟨hassigned, ⟨-, -, -, -, j, -, herr⟩, h⟩ | h
  case inl =>
    rw [h]
    exact ⟨rfl, roleCodeShown_of_legal hrole, roleCodeShown_roleNone, emptyRowRole_shown⟩
  case inr.inl =>
    rw [h]
    exact ⟨rfl, roleCodeShown_roleCode x, roleCodeShown_roleNone, emptyRowRole_shown⟩
  case inr.inr.inl | inr.inr.inr.inr.inr.inr =>
    rw [h]
    exact ⟨rfl, roleCodeShown_roleNone, roleCodeShown_roleNone, emptyRowRole_shown⟩
  case inr.inr.inr.inl =>
    have hrows := hsync.rowRole_shown
    obtain ⟨-, -, h⟩ := hsync
    rw [h]
    exact ⟨rfl, roleCodeShown_roleNone, roleCodeShown_roleNone, hrows⟩
  case inr.inr.inr.inr.inl =>
    rw [h]
    exact ⟨rfl, roleCodeShown_roleNone, roleCodeShown_roleNone, hassigned.shown⟩
  case inr.inr.inr.inr.inr.inl =>
    have herrShown : roleCodeShown r.errRole = true := herr ▸ hassigned.shown j
    rw [h]
    exact ⟨rfl, roleCodeShown_roleNone, herrShown, hassigned.shown⟩

/-- A state that shows a request's record is coherent, whatever `RSP_VALID` is. -/
theorem State.coherent_of_fromRequest {s : State} (h : s.res.FromRequest) : s.Coherent :=
  ⟨h.codesShown, .inr h⟩

/-- A state with the reset values of `RSP_VALID` and `Res` is coherent. -/
theorem State.coherent_of_resetValues {s : State} (hres : s.res = Result.resetValues)
    (hvalid : s.rspValid = false) : s.Coherent := by
  obtain ⟨hcodes, -⟩ : State.reset.Coherent := resetStateIsCoherent
  exact ⟨hres ▸ hcodes, .inl ⟨hres, hvalid⟩⟩

theorem Inputs.edge_kind (e : Inputs) : e.rst = true ∨ e.Accepted ∨ e.Idle := by
  unfold Inputs.Accepted Inputs.Idle
  cases e.rst <;> cases e.reqValid <;> simp

/-- Settles O41, by R23's three kinds of edge: a reset edge and a request each leave a record of
their own, and an idle edge holds the record and clears `RSP_VALID`. -/
theorem stepKeepsCoherent : Obligations.StepKeepsCoherent := by
  rintro s t ⟨hcodes, hres⟩ ht
  rcases s.inputs.edge_kind with hrst | hacc | hidle
  · rw [step_of_rst hrst, resetEdge_eq_next_iff] at ht
    rw [ht]
    exact State.coherent_of_resetValues rfl rfl
  · rw [(step_eq_next_iff_of_accepted hacc).1 ht]
    exact State.coherent_of_fromRequest (requestResult_fromRequest _ _)
  · rw [step_of_idle hidle, idleEdge_eq_next_iff] at ht
    rw [ht]
    exact ⟨hcodes, hres.imp_left fun ⟨hreset, _⟩ => ⟨hreset, rfl⟩⟩

end Sys2Proof.Machine

/-! The CRC chapter's statements (R53 to R61): the division as a remainder of polynomials over
GF(2), its parity form, the laws of checkwords and syndromes, and the requests GEN and CHK. -/

namespace Sys2Proof.Machine

/-! ### Words as polynomials -/

open Polynomial in
theorem coeff_bitsPoly {n : Nat} (v : BitVec n) (i : Nat) :
    (bitsPoly v).coeff i = if v.getLsbD i then 1 else 0 := by
  have hcoeff : ∀ j : Fin n, (if v.getLsbD j then (X : (ZMod 2)[X]) ^ (j : Nat) else 0).coeff i =
      if (j : Nat) = i then (if v.getLsbD i then 1 else 0) else 0 := by
    intro j
    by_cases hj : (j : Nat) = i
    · subst hj
      cases v.getLsbD j <;> simp
    · cases v.getLsbD j <;> simp [coeff_X_pow, hj, Ne.symm hj]
  rw [bitsPoly, finsetSum_coeff, Finset.sum_congr rfl fun j _ => hcoeff j]
  by_cases hi : i < n
  · rw [Finset.sum_eq_single_of_mem (⟨i, hi⟩ : Fin n) (Finset.mem_univ _) fun j _ hj =>
      if_neg fun hji => hj (Fin.ext hji)]
    exact if_pos rfl
  · rw [BitVec.getLsbD_of_ge v i (by omega)]
    simp

@[simp] theorem bitsPoly_zero (n : Nat) : bitsPoly 0#n = 0 := by
  ext i
  simp [coeff_bitsPoly]

/-- XOR of words is addition over GF(2). -/
theorem bitsPoly_xor {n : Nat} (a b : BitVec n) : bitsPoly (a ^^^ b) = bitsPoly a + bitsPoly b := by
  ext i
  rw [Polynomial.coeff_add, coeff_bitsPoly, coeff_bitsPoly, coeff_bitsPoly, BitVec.getLsbD_xor]
  cases a.getLsbD i <;> cases b.getLsbD i <;> decide

/-- A left shift that drops no bit multiplies by a power of `x`. -/
theorem bitsPoly_setWidth_shiftLeft {n m k : Nat} (v : BitVec n) (h : n + k ≤ m) :
    bitsPoly (v.setWidth m <<< k) = bitsPoly v * Polynomial.X ^ k := by
  ext i
  rw [Polynomial.coeff_mul_X_pow', coeff_bitsPoly, coeff_bitsPoly, BitVec.getLsbD_shiftLeft,
    BitVec.getLsbD_setWidth]
  by_cases hki : k ≤ i
  · by_cases hi : i - k < n
    · simp [hki, show i < m by omega, show i - k < m by omega]
    · simp [BitVec.getLsbD_of_ge v (i - k) (by omega)]
  · simp [hki, show i < k by omega]

theorem bitsPoly_one_shiftLeft {n k : Nat} (h : k < n) :
    bitsPoly (1#n <<< k) = Polynomial.X ^ k := by
  have hone : bitsPoly 1#1 = 1 := by simp [bitsPoly]
  have hshift := bitsPoly_setWidth_shiftLeft (m := n) (k := k) 1#1 (by omega)
  rwa [hone, one_mul, BitVec.setWidth_ofNat_one_eq_ofNat_one_of_lt (by omega)] at hshift

theorem degree_bitsPoly_lt {n : Nat} (v : BitVec n) : (bitsPoly v).degree < n := by
  rw [Polynomial.degree_lt_iff_coeff_zero]
  intro i hi
  simp [coeff_bitsPoly, BitVec.getLsbD_of_ge v i hi]

/-- A row is its data word above its checkword (R31). -/
theorem bitsPoly_row (w : Row) :
    bitsPoly w = bitsPoly (rowData w) * Polynomial.X ^ 10 + bitsPoly (rowCheckword w) := by
  ext i
  rw [Polynomial.coeff_add, Polynomial.coeff_mul_X_pow', coeff_bitsPoly, coeff_bitsPoly,
    coeff_bitsPoly, rowData, rowCheckword, BitVec.getLsbD_extractLsb', BitVec.getLsbD_extractLsb']
  by_cases hi : i < 10
  · simp [hi, show ¬ 10 ≤ i by omega]
  · by_cases hw : i < 26
    · simp [hi, show 10 ≤ i by omega, show i - 10 < 16 by omega, show 10 + (i - 10) = i by omega]
    · simp [hi, show ¬ i - 10 < 16 by omega, BitVec.getLsbD_of_ge w i (by omega)]

/-! ### The division as a remainder (R53) -/

theorem bitsPoly_genPoly_monic : (bitsPoly genPoly).Monic := by
  refine Polynomial.monic_of_degree_le 10 (Order.le_of_lt_succ (degree_bitsPoly_lt genPoly)) ?_
  rw [coeff_bitsPoly]
  decide

theorem degree_bitsPoly_genPoly : (bitsPoly genPoly).degree = 10 := by
  refine Polynomial.degree_eq_of_le_of_coeff_ne_zero
    (Order.le_of_lt_succ (degree_bitsPoly_lt genPoly)) ?_
  rw [coeff_bitsPoly]
  decide

/-- A checkword is its own remainder. -/
theorem bitsPoly_modByMonic_genPoly (c : Checkword) :
    bitsPoly c %ₘ bitsPoly genPoly = bitsPoly c := by
  rw [Polynomial.modByMonic_eq_self_iff bitsPoly_genPoly_monic, degree_bitsPoly_genPoly]
  exact degree_bitsPoly_lt c

/-- A pass of the loop adds a multiple of `g(x)` or nothing. -/
theorem divStep_modByMonic (v : BitVec 26) {b : Nat} (hb : b < 26) :
    bitsPoly (divStep v b) %ₘ bitsPoly genPoly = bitsPoly v %ₘ bitsPoly genPoly := by
  unfold divStep
  split
  · refine Polynomial.modByMonic_eq_of_dvd_sub bitsPoly_genPoly_monic ?_
    rw [bitsPoly_xor, bitsPoly_setWidth_shiftLeft genPoly (by omega), add_sub_cancel_left]
    exact dvd_mul_right _ _
  · rfl

theorem foldl_divStep_modByMonic (bs : List Nat) (hbs : ∀ b ∈ bs, b < 26) (v : BitVec 26) :
    bitsPoly (bs.foldl divStep v) %ₘ bitsPoly genPoly = bitsPoly v %ₘ bitsPoly genPoly := by
  induction bs generalizing v with
  | nil => rfl
  | cons b bs ih =>
    obtain ⟨hb, hbs⟩ := List.forall_mem_cons.1 hbs
    rw [List.foldl_cons, ih hbs, divStep_modByMonic v hb]

/-- Shifted so that its top bit stands at `b`, the generator has no bit above `b`. -/
theorem getLsbD_genPoly_shiftLeft {b i : Nat} (hb : 10 ≤ b) (hbi : b ≤ i) (hi : i < 26) :
    (genPoly.setWidth 26 <<< (b - 10)).getLsbD i = decide (i = b) := by
  rw [BitVec.getLsbD_shiftLeft, BitVec.getLsbD_setWidth,
    show i - (b - 10) = 10 + (i - b) by omega]
  rcases hbi.eq_or_lt with rfl | hlt
  · have hshift : ¬ b < b - 10 := by omega
    simp [hi, hshift, genPoly]
  · have hg : genPoly.getLsbD (10 + (i - b)) = false := BitVec.getLsbD_of_ge _ _ (by omega)
    simp [hg, hlt.ne']

/-- From `b` up, a pass changes bit `b` alone, and only where it is 1. -/
theorem getLsbD_divStep {v : BitVec 26} {b i : Nat} (hb : 10 ≤ b) (hbi : b ≤ i) (hi : i < 26) :
    (divStep v b).getLsbD i = (v.getLsbD i ^^ (v.getLsbD b && decide (i = b))) := by
  unfold divStep
  cases v.getLsbD b
  · simp
  · rw [if_pos rfl, BitVec.getLsbD_xor, getLsbD_genPoly_shiftLeft hb hbi hi, Bool.true_and]

/-- The pass at bit `b` clears it and leaves the cleared bits above. -/
theorem getLsbD_divStep_eq_false {v : BitVec 26} {b i : Nat} (hb : 10 ≤ b)
    (hv : ∀ j, b < j → v.getLsbD j = false) (hbi : b ≤ i) : (divStep v b).getLsbD i = false := by
  by_cases hi : i < 26
  · rw [getLsbD_divStep hb hbi hi]
    rcases hbi.eq_or_lt with rfl | hlt
    · simp
    · simp [hv i hlt, hlt.ne']
  · exact BitVec.getLsbD_of_ge _ i (by omega)

/-- The loop over the bits from `9 + n` down to 10 clears them. -/
theorem getLsbD_foldl_divStep (n : Nat) {v : BitVec 26}
    (hv : ∀ i, 10 + n ≤ i → v.getLsbD i = false) {i : Nat} (hi : 10 ≤ i) :
    ((List.range' 10 n).reverse.foldl divStep v).getLsbD i = false := by
  induction n generalizing v with
  | zero => exact hv i hi
  | succ n ih =>
    rw [List.range'_1_concat, List.reverse_concat, List.foldl_cons]
    exact ih fun j hj => getLsbD_divStep_eq_false (by omega) (fun i hi => hv i (by omega)) hj

theorem rowData_divide (d : Data) : rowData (divide d) = 0#16 := by
  have hdiv : divBits = (List.range' 10 16).reverse := rfl
  refine BitVec.eq_of_getLsbD_eq fun i hi => ?_
  rw [rowData, BitVec.getLsbD_extractLsb', divide, hdiv,
    getLsbD_foldl_divStep 16 (fun j hj => BitVec.getLsbD_of_ge _ j hj) (by omega)]
  simp

theorem bitsPoly_raw (d : Data) :
    bitsPoly (raw d) = (bitsPoly d * Polynomial.X ^ 10) %ₘ bitsPoly genPoly := by
  have hdivide : bitsPoly (divide d) = bitsPoly (raw d) := by
    rw [bitsPoly_row, rowData_divide, bitsPoly_zero, zero_mul, zero_add]
    rfl
  calc bitsPoly (raw d)
      = bitsPoly (divide d) %ₘ bitsPoly genPoly := by
        rw [hdivide, bitsPoly_modByMonic_genPoly]
    _ = bitsPoly (d.setWidth 26 <<< 10) %ₘ bitsPoly genPoly :=
        foldl_divStep_modByMonic divBits (by decide) _
    _ = _ := by rw [bitsPoly_setWidth_shiftLeft d (by omega)]

/-- Settles O27: each pass clears its bit and adds a multiple of `g(x)` or nothing, so what the loop
leaves is the remainder. -/
theorem rawIsPolynomialRemainder : Obligations.RawIsPolynomialRemainder :=
  fun d => ⟨rowData_divide d, bitsPoly_raw d⟩

/-- The syndrome of a row is the remainder of the whole row by `g(x)`. -/
theorem bitsPoly_syndrome (w : Row) :
    bitsPoly (syndrome w) = bitsPoly w %ₘ bitsPoly genPoly := by
  rw [syndrome, bitsPoly_xor, bitsPoly_raw, bitsPoly_row w, Polynomial.add_modByMonic,
    bitsPoly_modByMonic_genPoly, add_comm]

/-! ### The parity table and the network (R54) -/

theorem parityTable_getElem? (i : Fin 16) : parityTable[i.val]? = some (raw (1#16 <<< i.val)) := by
  revert i
  decide +kernel

theorem rawParity_eq_raw (d : Data) : rawParity d = raw d := by
  refine xorAdditive_ext (fun a b => ?_) raw_xor ?_ d
  · exact foldl_xorIf_xor parityTable.zipIdx a b 0#10 0#10
  · decide +kernel

/-- An XOR of selected bits is additive over GF(2). -/
theorem foldl_bne_xor (a b : Data) (ps : List Nat) (x y : Bool) :
    ps.foldl (fun z p => z != (a ^^^ b).getLsbD p) (x != y) =
      (ps.foldl (fun z p => z != a.getLsbD p) x != ps.foldl (fun z p => z != b.getLsbD p) y) := by
  induction ps generalizing x y with
  | nil => rfl
  | cons p ps ih =>
    rw [List.foldl_cons, List.foldl_cons, List.foldl_cons, ← ih, BitVec.getLsbD_xor]
    congr 1
    cases x <;> cases y <;> cases a.getLsbD p <;> cases b.getLsbD p <;> rfl

theorem xorBits_xor (a b : Data) (ps : List Nat) :
    xorBits (a ^^^ b) ps = (xorBits a ps ^^ xorBits b ps) :=
  foldl_bne_xor a b ps false false

theorem raw_getLsbD_eq_xorBits (d : Data) (k : Fin 10) :
    (raw d).getLsbD k = xorBits d networkTaps[k] := by
  have hofBool : Function.Injective BitVec.ofBool := by decide
  refine hofBool (xorAdditive_ext (f := fun d => BitVec.ofBool ((raw d).getLsbD k))
    (g := fun d => BitVec.ofBool (xorBits d networkTaps[k])) (fun a b => ?_) (fun a b => ?_) ?_ d)
  · rw [raw_xor, BitVec.getLsbD_xor, BitVec.ofBool_xor_ofBool]
  · rw [xorBits_xor, BitVec.ofBool_xor_ofBool]
  · revert k
    decide +kernel

/-- Settles O28: the table's XOR and each output bit of the network are additive over GF(2), as
`raw` is, and agree with it on the single bits. -/
theorem parityNetworkComputesRaw : Obligations.ParityNetworkComputesRaw :=
  ⟨parityTable_getElem?, rawParity_eq_raw, fun d k =>
    ⟨networkTaps[k], List.getElem?_eq_getElem _, raw_getLsbD_eq_xorBits d k⟩⟩

/-! ### The laws of `Raw` and `Cw` (R56) -/

theorem raw_zero : raw 0#16 = 0#10 := by
  simpa using raw_xor 0#16 0#16

theorem genMultiple_xor (a b : BitVec 6) :
    genMultiple (a ^^^ b) = genMultiple a ^^^ genMultiple b :=
  foldl_xorIf_xor ([0, 1, 2, 3, 4, 5].map fun i => (genPoly.setWidth 16 <<< i, i)) a b 0#16 0#16

theorem raw_genMultiple (q : BitVec 6) : raw (genMultiple q) = 0#10 := by
  refine xorAdditive_ext (f := fun q => raw (genMultiple q)) (g := fun _ => 0#10) (fun a b => ?_)
    (fun _ _ => rfl) ?_ q
  · rw [genMultiple_xor, raw_xor]
  · decide +kernel

/-- The quotient by `g(x)` of each power of `x` from 10 to 15; of a lower power it is 0. -/
def quotientUnits : List (BitVec 6 × Nat) :=
  [(0b000001#6, 10), (0b000010#6, 11), (0b000101#6, 12), (0b001011#6, 13), (0b010111#6, 14),
   (0b101111#6, 15)]

/-- The quotient of `d(x)` by `g(x)`. -/
def genQuotient (d : Data) : BitVec 6 :=
  quotientUnits.foldl (fun q p => if d.getLsbD p.2 then q ^^^ p.1 else q) 0#6

theorem genQuotient_xor (a b : Data) : genQuotient (a ^^^ b) = genQuotient a ^^^ genQuotient b :=
  foldl_xorIf_xor quotientUnits a b 0#6 0#6

theorem genQuotient_genMultiple (q : BitVec 6) : genQuotient (genMultiple q) = q := by
  refine xorAdditive_ext (f := fun q => genQuotient (genMultiple q)) (g := id) (fun a b => ?_)
    (fun _ _ => rfl) ?_ q
  · rw [genMultiple_xor, genQuotient_xor]
  · decide +kernel

/-- A data word is its quotient times `g(x)` plus a remainder, which its `Raw` fixes. -/
theorem genMultiple_genQuotient_xor_rawPreimage (d : Data) :
    genMultiple (genQuotient d) ^^^ rawPreimage (raw d) = d := by
  refine xorAdditive_ext (f := fun d => genMultiple (genQuotient d) ^^^ rawPreimage (raw d))
    (g := id) (fun a b => ?_) (fun _ _ => rfl) ?_ d
  · rw [genQuotient_xor, genMultiple_xor, raw_xor, rawPreimage_xor]
    ac_rfl
  · decide +kernel

theorem raw_eq_zero_iff {d : Data} : raw d = 0#10 ↔ ∃ q : BitVec 6, d = genMultiple q := by
  constructor
  · intro h
    have hd := genMultiple_genQuotient_xor_rawPreimage d
    rw [h, show rawPreimage 0#10 = 0#16 from rfl, BitVec.xor_zero] at hd
    exact ⟨genQuotient d, hd.symm⟩
  · rintro ⟨q, rfl⟩
    exact raw_genMultiple q

/-- Settles O29: `raw` is additive, and the words of remainder 0 are `g(x)` times their quotient. -/
theorem checkwordLaws : Obligations.CheckwordLaws := by
  refine ⟨raw_zero, fun r => ?_, raw_xor, fun a b r => ?_, fun d => BitVec.xor_zero,
    fun d => raw_eq_zero_iff, Function.LeftInverse.injective genQuotient_genMultiple, rfl, rfl⟩
  · rw [checkword, raw_zero, BitVec.zero_xor]
  · rw [checkword, checkword, raw_xor]
    ac_rfl

/-! ### Acceptance (R57, R58) -/

theorem checkword_eq_rowCheckword_iff {w : Row} {r : Role} :
    checkword (rowData w) r = rowCheckword w ↔ syndrome w = offsetRom r := by
  rw [← matchesRole_iff, matchesRole, chkMatch, beq_iff_eq]

/-- `MATCH` after CHK says which offset word the syndrome is. -/
theorem matched_of_exec_chkOf {s t : State} {r : Role} (h : exec (chkOf r) s = .next t) :
    t.res.matched = true ↔ syndrome s.inputs.rowIn[0] = offsetRom r := by
  rw [exec_eq_next_iff.1 h, State.afterEdge_res, requestResult_chkOf, ← matchesRole_iff]
  rfl

/-- Settles O30: both tests compare the same words, and CHK's `MATCH` is the first of them. -/
theorem acceptanceIsSyndromeEquality : Obligations.AcceptanceIsSyndromeEquality :=
  ⟨fun _ _ => checkword_eq_rowCheckword_iff, fun _ _ _ => matched_of_exec_chkOf⟩

/-- Settles O31: a matching CHK names the syndrome's offset word, and no two roles share one. -/
theorem rowMatchesAtMostOneRole : Obligations.RowMatchesAtMostOneRole := by
  intro s t t' r r' ht ht'
  rw [matched_of_exec_chkOf ht, matched_of_exec_chkOf ht']
  refine ⟨fun h h' => offsetRom_injective (h.symm.trans h'), fun hzero => ?_⟩
  rw [hzero]
  exact (offsetRom_injective.eq_iff (a := .E)).trans eq_comm

/-! ### Single-bit errors (R59) -/

theorem syndrome_one_shiftLeft (k : Fin 26) : syndrome (1#26 <<< k.val) = flipSyndrome[k] := by
  revert k
  decide +kernel

theorem syndrome_flipBit (w : Row) (k : Fin 26) :
    syndrome (flipBit w k) = syndrome w ^^^ flipSyndrome[k] := by
  rw [flipBit, syndrome_xor, syndrome_one_shiftLeft]

theorem bitsPoly_flipSyndrome (k : Fin 26) :
    bitsPoly flipSyndrome[k] = Polynomial.X ^ k.val %ₘ bitsPoly genPoly := by
  rw [← syndrome_one_shiftLeft, bitsPoly_syndrome, bitsPoly_one_shiftLeft k.isLt]

/-- The offset words of C and D, and of no other two roles, differ by an entry of R59's table: the
one of bit 18. -/
theorem offsetRom_xor_flipSyndrome_iff {r r' : Role} {k : Fin 26} :
    offsetRom r ^^^ flipSyndrome[k] = offsetRom r' ↔
      k = 18 ∧ ((r = .C ∧ r' = .D) ∨ (r = .D ∧ r' = .C)) := by
  revert k
  cases r <;> cases r' <;> decide

theorem matchesRole_flipBit_iff {w : Row} {k : Fin 26} {r r' : Role}
    (h : matchesRole w r = true) :
    matchesRole (flipBit w k) r' = true ↔
      k = 18 ∧ ((r = .C ∧ r' = .D) ∨ (r = .D ∧ r' = .C)) := by
  rw [matchesRole_iff, syndrome_flipBit, matchesRole_iff.1 h, offsetRom_xor_flipSyndrome_iff]

/-- Settles O32: a flip adds the syndrome of its single bit, which is the table's entry, and only C
and D differ by an entry. -/
theorem singleBitFlipMovesSyndrome : Obligations.SingleBitFlipMovesSyndrome := by
  intro w k
  refine ⟨syndrome_flipBit w k, bitsPoly_flipSyndrome k, by revert k; decide, fun r hr => ?_,
    fun hk hC => (matchesRole_flipBit_iff hC).2 ⟨hk, .inl ⟨rfl, rfl⟩⟩,
    fun hk hD => (matchesRole_flipBit_iff hD).2 ⟨hk, .inr ⟨rfl, rfl⟩⟩,
    fun r r' hr => (matchesRole_flipBit_iff hr).1⟩
  rw [← Bool.not_eq_true, matchesRole_flipBit_iff hr]
  rintro ⟨-, ⟨rfl, h⟩ | ⟨rfl, h⟩⟩ <;> cases h

/-! ### The requests GEN and CHK (R60, R61) -/

theorem exec_genOf (r : Role) (s : State) :
    exec (genOf r) s = .next (s.afterEdge true (genResult r (rowData s.inputs.rowIn[0]))) := by
  rw [exec_eq_next_iff, requestResult_genOf]

theorem exec_chkOf (r : Role) (s : State) :
    exec (chkOf r) s = .next (s.afterEdge true
      (chkResult r (rowData s.inputs.rowIn[0]) (rowCheckword s.inputs.rowIn[0]))) := by
  rw [exec_eq_next_iff, requestResult_chkOf]

/-- Settles O10: the listed triples are the roles' instructions, codes and offset words. -/
theorem genWritesCheckword : Obligations.GenWritesCheckword := by
  intro s x hx
  obtain ⟨r, -, rfl⟩ : ∃ r ∈ [Role.A, .B, .C, .D, .E], (genOf r, roleCode r, offsetRom r) = x :=
    List.mem_map.1 hx
  exact exec_genOf r s

/-- Settles O11: `MATCH` is `matchesRole` of the row, which compares the two checkwords. -/
theorem chkComparesCheckword : Obligations.ChkComparesCheckword := by
  intro s x hx
  obtain ⟨r, -, rfl⟩ : ∃ r ∈ [Role.A, .B, .C, .D, .E], (chkOf r, roleCode r, offsetRom r) = x :=
    List.mem_map.1 hx
  exact ⟨matchesRole s.inputs.rowIn[0] r, beq_iff_eq, exec_chkOf r s⟩

/-- The row that GEN's checkword completes has its role's offset word as syndrome. -/
theorem syndrome_mkRow_checkword (d : Data) (r : Role) :
    syndrome (mkRow d (checkword d r)) = offsetRom r := by
  rw [← checkword_eq_rowCheckword_iff, rowData_mkRow, rowCheckword_mkRow]

/-- Settles O33: the syndrome of the row is `Off(r)`, and CHK and CLS go by the syndrome. -/
theorem generatedRowIsRecognised : Obligations.GeneratedRowIsRecognised := by
  intro s t s' t' r r' role ht hrow
  rw [exec_genOf, Host.Outcome.next.injEq] at ht
  subst ht
  have hsyn : syndrome s'.inputs.rowIn[0] = offsetRom r := by
    rw [hrow]
    exact syndrome_mkRow_checkword _ r
  refine ⟨fun h => ?_, fun h hr => ?_, fun h hr => ?_⟩
  · rw [matched_of_exec_chkOf h, hsyn, offsetRom_injective.eq_iff, eq_comm]
  · rw [exec_eq_next_iff.1 h, State.afterEdge_res, requestResult_cls,
      clsResult_of_classify_some (classify_eq_some_iff.2 ⟨hr, hsyn⟩), hsyn]
    exact ⟨rfl, rfl, rfl⟩
  · have hnone : classify s'.inputs.rowIn[0] = none := by
      refine classify_eq_none_iff.2 fun x hx he => hx ?_
      rw [← hr]
      exact offsetRom_injective (he.symm.trans hsyn)
    rw [exec_eq_next_iff.1 h, State.afterEdge_res, requestResult_cls,
      clsResult_of_classify_none hnone]
    exact ⟨rfl, rfl⟩

end Sys2Proof.Machine

/-! The synchronizer chapter's statements (R64 to R74): the role match, what CLS and SYNC write, and
that SYNC's success depends on the set of the rows' roles and not on their order. -/

namespace Sys2Proof.Machine

/-! ### The role match and CLS (R66, R67) -/

theorem roleCode_canonicalRole (k : Fin 4) : roleCode (canonicalRole k) = BitVec.ofNat 3 k := by
  revert k
  decide

/-- Settles O34: the trial order holds A to D, and no two of them share an offset word. -/
theorem classifyFindsTheMatchingRole : Obligations.ClassifyFindsTheMatchingRole := by
  intro w
  simp only [ne_eq, checkword_eq_rowCheckword_iff]
  refine ⟨fun r => classify_eq_some_iff, classify_eq_none_iff, fun hE => ?_⟩
  refine classify_eq_none_iff.2 fun r hr he => hr ?_
  exact offsetRom_injective (he.symm.trans hE)

/-- Settles O12: `classify` goes by the syndrome, and CLS writes the record of what it answers. -/
theorem clsReportsRoleBySyndrome : Obligations.ClsReportsRoleBySyndrome := by
  intro role s w syn
  refine ⟨fun k hk => exec_eq_next_iff.2 ?_, fun hno => exec_eq_next_iff.2 ?_⟩
  · have hclass : classify w = some (canonicalRole k) :=
      classify_eq_some_iff.2 ⟨canonicalRole_ne_E k, hk⟩
    rw [requestResult_cls, clsResult_of_classify_some hclass, roleCode_canonicalRole]
    rfl
  · have hclass : classify w = none := by
      refine classify_eq_none_iff.2 fun r hr => ?_
      obtain ⟨k, rfl⟩ := ne_E_iff_exists_canonicalRole.1 hr
      exact hno k
    rw [requestResult_cls, clsResult_of_classify_none hclass]
    rfl

/-! ### The outcomes of SYNC (R68, R69) -/

/-- The record that SYNC leaves is a function of its rows. -/
theorem res_of_exec_sync {role : RoleCode} {s t : State} (h : exec (.sync role) s = .next t) :
    t.res = syncResult s.inputs.rowIn := by
  rw [exec_eq_next_iff.1 h, State.afterEdge_res, requestResult_sync]

/-- Settles O14: the scan's lowest unmatched row decides, whatever rows share a role. -/
theorem syncNamesFirstUnmatchedRow : Obligations.SyncNamesFirstUnmatchedRow := by
  intro role s i w hi hlt
  rw [exec_eq_next_iff, requestResult_sync, syncResult_of_unmatched hi hlt]
  rfl

/-- Settles O15: with no unmatched row the scan's lowest duplicate decides. -/
theorem syncNamesFirstDuplicateRow : Obligations.SyncNamesFirstDuplicateRow := by
  intro role s i r w hall hi hdup hfirst
  rw [← hi] at hdup
  rw [exec_eq_next_iff, requestResult_sync, syncResult_of_duplicate hall hdup hfirst, hi]
  rfl

/-! ### When SYNC succeeds (R70) -/

/-- The rows stand at the four positions in the order of a permutation exactly when each of A, B, C
and D is the role of some row. -/
theorem exists_perm_iff_every_role {w : Rows} :
    (∃ e : Equiv.Perm (Fin 4), ∀ i : Fin 4, classify w[i] = some (canonicalRole (e i))) ↔
      ∀ k : Fin 4, ∃ i : Fin 4, classify w[i] = some (canonicalRole k) := by
  constructor
  · rintro ⟨e, he⟩ k
    exact ⟨e.symm k, by rw [he, e.apply_symm_apply]⟩
  · intro h
    choose f hf using h
    have hinj : Function.Injective f := by
      intro j k hjk
      have he : some (canonicalRole j) = some (canonicalRole k) := by rw [← hf, ← hf, hjk]
      exact canonicalRole_injective (Option.some_inj.1 he)
    let e := Equiv.ofBijective f (Finite.injective_iff_bijective.1 hinj)
    refine ⟨e.symm, fun i => ?_⟩
    rw [← hf]
    exact congrArg (fun j : Fin 4 => classify w[j]) (e.apply_symm_apply i).symm

/-- The rows stand at the four positions in the order of a permutation exactly when every row has a
role and no two rows share one. -/
theorem exists_perm_iff_injective {w : Rows} :
    (∃ e : Equiv.Perm (Fin 4), ∀ i : Fin 4, classify w[i] = some (canonicalRole (e i))) ↔
      (∀ i : Fin 4, classify w[i] ≠ none) ∧ Function.Injective fun i : Fin 4 => classify w[i] := by
  constructor
  · rintro ⟨e, he⟩
    refine ⟨fun i => classify_ne_none_iff.2 ⟨e i, he i⟩, fun i j hij => e.injective ?_⟩
    simp only [he] at hij
    exact canonicalRole_injective (Option.some_inj.1 hij)
  · rintro ⟨hall, hinj⟩
    exact exists_perm_of_distinct_roles hall fun j k hjk he => hjk.ne (hinj he)

/-- `STATUS` after SYNC, said without the order of the rows. -/
theorem syncResult_status (w : Rows) :
    (syncResult w).status =
      if ∃ i : Fin 4, classify w[i] = none then statusNoMatch
      else if Function.Injective fun i : Fin 4 => classify w[i] then statusOk
      else statusDuplicateRole := by
  rcases group_cases w with ⟨i, hi, hlt⟩ | ⟨i, hall, hdup, hfirst⟩ | ⟨e, he⟩
  · rw [syncResult_of_unmatched hi hlt, if_pos ⟨i, hi⟩]
  · have hninj : ¬ Function.Injective fun i : Fin 4 => classify w[i] := by
      obtain ⟨j, hj, hji⟩ := hdup
      exact fun hinj => hj.ne (hinj hji)
    rw [syncResult_of_duplicate hall hdup hfirst, if_neg (not_exists.2 hall), if_neg hninj]
  · obtain ⟨hall, hinj⟩ := exists_perm_iff_injective.1 ⟨e, he⟩
    rw [syncResult_of_perm e he, if_neg (not_exists.2 hall), if_pos hinj]
    rfl

theorem syncResult_status_eq_ok_iff {w : Rows} :
    (syncResult w).status = statusOk ↔
      ∃ e : Equiv.Perm (Fin 4), ∀ i : Fin 4, classify w[i] = some (canonicalRole (e i)) := by
  rw [exists_perm_iff_injective, ← not_exists, syncResult_status]
  split_ifs with hno hinj
  · exact iff_of_false (by decide) fun h => h.1 hno
  · exact iff_of_true rfl ⟨hno, hinj⟩
  · exact iff_of_false (by decide) fun h => hinj h.2

theorem classify_ne_none_of_ok {w : Rows} (h : (syncResult w).status = statusOk) (i : Fin 4) :
    classify w[i] ≠ none :=
  (exists_perm_iff_injective.1 (syncResult_status_eq_ok_iff.1 h)).1 i

theorem classify_injective_of_ok {w : Rows} (h : (syncResult w).status = statusOk) :
    Function.Injective fun i : Fin 4 => classify w[i] :=
  (exists_perm_iff_injective.1 (syncResult_status_eq_ok_iff.1 h)).2

/-- `MATCH` after SYNC marks success. -/
theorem syncResult_matched_iff {w : Rows} :
    (syncResult w).matched = true ↔ (syncResult w).status = statusOk := by
  constructor
  · intro h
    by_contra hs
    obtain ⟨hfalse, -, -⟩ := (syncResult_fromRequest w).fields_of_status.1 hs
    exact Bool.false_ne_true (hfalse.symm.trans h)
  · intro h
    obtain ⟨e, he⟩ := syncResult_status_eq_ok_iff.1 h
    rw [syncResult_of_perm e he]

theorem syncResult_rowRole_of_ok {w : Rows} (h : (syncResult w).status = statusOk) (i : Fin 4) :
    (syncResult w).rowRole[i] = roleOutCode (classify w[i]) := by
  obtain ⟨e, he⟩ := syncResult_status_eq_ok_iff.1 h
  rw [syncResult_of_perm e he, ofFn_get, he]
  rfl

/-- On success each row stands at the position of its role. -/
theorem syncResult_groupOut_of_ok {w : Rows} (h : (syncResult w).status = statusOk) {i k : Fin 4}
    (hi : classify w[i] = some (canonicalRole k)) : (syncResult w).groupOut[k] = w[i] := by
  obtain ⟨e, he⟩ := syncResult_status_eq_ok_iff.1 h
  have hk : e i = k := canonicalRole_injective (Option.some_inj.1 ((he i).symm.trans hi))
  rw [syncResult_of_perm e he, ofFn_get, ← hk]
  exact congrArg (fun j : Fin 4 => w[j]) (e.symm_apply_apply i)

/-- Settles O13: the rows' roles give a permutation, and SYNC writes its record. -/
theorem syncPlacesRowsByRole : Obligations.SyncPlacesRowsByRole := by
  intro role s w h
  obtain ⟨e, he⟩ := exists_perm_iff_every_role.2 h
  have hok : (syncResult w).status = statusOk := syncResult_status_eq_ok_iff.2 ⟨e, he⟩
  refine ⟨(syncResult w).groupOut, fun i k => syncResult_groupOut_of_ok hok, ?_⟩
  have hroles : (syncResult w).rowRole = Vector.ofFn fun i : Fin 4 => roleOutCode (classify w[i]) :=
    vector_four_ext fun i => by rw [ofFn_get, syncResult_rowRole_of_ok hok]
  rw [exec_eq_next_iff, requestResult_sync, ← hroles, syncResult_of_perm e he]
  rfl

/-- The roles of the trial order are those of the four canonical positions. -/
theorem range_canonicalRole :
    (Set.range fun k : Fin 4 => some (canonicalRole k)) = {some .A, some .B, some .C, some .D} := by
  ext c
  constructor
  · rintro ⟨k, rfl⟩
    fin_cases k <;> simp [canonicalRole]
  · rintro (rfl | rfl | rfl | rfl)
    exacts [⟨0, rfl⟩, ⟨1, rfl⟩, ⟨2, rfl⟩, ⟨3, rfl⟩]

/-- Settles O35: on success the permutation of `syncResult_status_eq_ok_iff` is the assignment. -/
theorem syncSuccessIsBijection : Obligations.SyncSuccessIsBijection := by
  intro role s t ht
  rw [res_of_exec_sync ht]
  generalize s.inputs.rowIn = w
  refine ⟨?_, fun hok => ?_⟩
  · rw [← range_canonicalRole]
    refine syncResult_status_eq_ok_iff.trans ⟨?_, fun hset => ?_⟩
    · rintro ⟨e, he⟩
      simp only [he]
      exact e.surjective.range_comp fun k => some (canonicalRole k)
    · refine exists_perm_iff_every_role.2 fun k => ?_
      exact hset.symm.subset ⟨k, rfl⟩
  · obtain ⟨e, he⟩ := syncResult_status_eq_ok_iff.1 hok
    refine ⟨e, fun i => ⟨?_, syncResult_groupOut_of_ok hok (he i)⟩⟩
    rw [syncResult_rowRole_of_ok hok, he, ← roleCode_canonicalRole]
    rfl

/-- Settles O39: `GROUP_OUT` reads the rows in the order of a permutation. -/
theorem syncKeepsEveryRow : Obligations.SyncKeepsEveryRow := by
  intro role s t ht hmatched
  rw [res_of_exec_sync ht] at hmatched ⊢
  generalize s.inputs.rowIn = w at hmatched ⊢
  obtain ⟨e, he⟩ := syncResult_status_eq_ok_iff.1 (syncResult_matched_iff.1 hmatched)
  have hw : w = Vector.ofFn fun i : Fin 4 => w[i] := vector_four_ext fun i => by rw [ofFn_get]
  rw [syncResult_of_perm e he]
  conv_rhs => rw [hw]
  rw [Vector.toList_ofFn, Vector.toList_ofFn]
  exact Equiv.Perm.ofFn_comp_perm e.symm fun i : Fin 4 => w[i]

/-! ### First match is an optimal assignment (R71) -/

/-- A role A to D whose checkword the row carries is the row's class. -/
theorem matching_role_iff {w : Row} {r : Role} :
    r ≠ .E ∧ checkword (rowData w) r = rowCheckword w ↔ classify w = some r := by
  rw [checkword_eq_rowCheckword_iff, classify_eq_some_iff]

theorem syncResult_ok_of_injective {w : Rows} {f : Fin 4 → Role} (hf : Function.Injective f)
    (h : ∀ i : Fin 4, classify w[i] = some (f i)) : (syncResult w).status = statusOk := by
  refine syncResult_status_eq_ok_iff.2 (exists_perm_iff_injective.2 ⟨fun i => ?_, ?_⟩)
  · rw [h]
    exact Option.some_ne_none (f i)
  · simp only [h]
    exact (Option.some_injective Role).comp hf

/-- Settles O36: a row matches one role at most, so no strategy has a choice that first match
misses. -/
theorem syncIsOptimalAssignment : Obligations.SyncIsOptimalAssignment := by
  intro role s t ht
  rw [res_of_exec_sync ht]
  generalize s.inputs.rowIn = w
  simp only [matching_role_iff]
  refine ⟨syncResult_matched_iff.trans ⟨fun hok => ?_, ?_⟩, fun f hf hclass i => ?_⟩
  · obtain ⟨e, he⟩ := syncResult_status_eq_ok_iff.1 hok
    exact ⟨canonicalRole ∘ e, canonicalRole_injective.comp e.injective, he⟩
  · rintro ⟨f, hf, hclass⟩
    exact syncResult_ok_of_injective hf hclass
  · rw [syncResult_rowRole_of_ok (syncResult_ok_of_injective hf hclass), hclass]
    rfl

/-! ### The order of the rows (R72) -/

theorem syncResult_status_of_reordered {w w' : Rows} {π : Equiv.Perm (Fin 4)}
    (h : ∀ i : Fin 4, w'[i] = w[π i]) : (syncResult w').status = (syncResult w).status := by
  have hno : (∃ i : Fin 4, classify w[π i] = none) ↔ ∃ i : Fin 4, classify w[i] = none :=
    (π.surjective.exists (p := fun i : Fin 4 => classify w[i] = none)).symm
  have hinj : (Function.Injective fun i : Fin 4 => classify w[π i]) ↔
      Function.Injective fun i : Fin 4 => classify w[i] :=
    π.injective_comp fun i : Fin 4 => classify w[i]
  simp only [syncResult_status, h, hno, hinj]

theorem syncResult_groupOut_of_reordered {w w' : Rows} {π : Equiv.Perm (Fin 4)}
    (h : ∀ i : Fin 4, w'[i] = w[π i]) : (syncResult w').groupOut = (syncResult w).groupOut := by
  have hstatus := syncResult_status_of_reordered h
  by_cases hok : (syncResult w).status = statusOk
  · refine vector_four_ext fun k => ?_
    obtain ⟨i, hi⟩ := exists_perm_iff_every_role.1 (syncResult_status_eq_ok_iff.1 hok) k
    obtain ⟨j, rfl⟩ := π.surjective i
    rw [syncResult_groupOut_of_ok hok hi, ← h]
    exact syncResult_groupOut_of_ok (hstatus.trans hok) (h j ▸ hi)
  · obtain ⟨-, -, hgroup⟩ := (syncResult_fromRequest w).fields_of_status.1 hok
    obtain ⟨-, -, hgroup'⟩ := (syncResult_fromRequest w').fields_of_status.1 (hstatus ▸ hok)
    rw [hgroup, hgroup']

/-- Some two states present rows in two orders. -/
theorem exists_sync_of_reordered (w : Rows) (π : Equiv.Perm (Fin 4)) :
    ∃ s s' t t' : State, (∀ i : Fin 4, s'.inputs.rowIn[i] = s.inputs.rowIn[π i]) ∧
      exec (.sync 0#3) s = .next t ∧ exec (.sync 0#3) s' = .next t' ∧
      t.res = syncResult w ∧ t'.res = syncResult (reorderRows w π) :=
  ⟨{ State.reset with upcoming := [requestInputs 0b11#5 w] },
    { State.reset with upcoming := [requestInputs 0b11#5 (reorderRows w π)] }, _, _,
    reorderRows_get w π, exec_eq_next_iff.2 rfl, exec_eq_next_iff.2 rfl, rfl, rfl⟩

/-- Settles O37: status, and on success the places, are said without the order of the rows; an
unmatched row moves with a swap, and of A, B, A, B the first repeated role changes with it. -/
theorem syncIgnoresRowOrder : Obligations.SyncIgnoresRowOrder := by
  refine ⟨?_, ?_, ?_⟩
  · intro π role role' s s' t t' hrows ht ht'
    rw [res_of_exec_sync ht, res_of_exec_sync ht']
    have hstatus := syncResult_status_of_reordered hrows
    refine ⟨hstatus, ?_, syncResult_groupOut_of_reordered hrows, fun hok i => ?_⟩
    · rw [Bool.eq_iff_iff, syncResult_matched_iff, syncResult_matched_iff, hstatus]
    · rw [syncResult_rowRole_of_ok (hstatus.trans hok), syncResult_rowRole_of_ok hok, hrows]
  · obtain ⟨s, s', t, t', hrows, ht, ht', hres, hres'⟩ := exists_sync_of_reordered
      #v[classRow none, classRow (some .A), classRow (some .B), classRow (some .C)]
      (Equiv.swap 0 1)
    refine ⟨_, 0#3, s, s', t, t', hrows, ht, ht', ?_⟩
    rw [hres, hres']
    decide +kernel
  · obtain ⟨s, s', t, t', hrows, ht, ht', hres, hres'⟩ := exists_sync_of_reordered
      #v[classRow (some .A), classRow (some .B), classRow (some .A), classRow (some .B)]
      (Equiv.swap 2 3)
    refine ⟨_, 0#3, s, s', t, t', hrows, ht, ht', ?_⟩
    rw [hres, hres']
    decide +kernel

/-! ### One flipped bit (R73) -/

theorem classify_mkRow_checkword (d : Data) {r : Role} (hr : r ≠ .E) :
    classify (mkRow d (checkword d r)) = some r :=
  classify_eq_some_iff.2 ⟨hr, syndrome_mkRow_checkword d r⟩

/-- A flip makes of a row with a role a row with another role only between C and D. -/
theorem classify_flipBit_eq_some_iff {w : Row} {k : Fin 26} {r : Role} (h : classify w ≠ none) :
    classify (flipBit w k) = some r ↔
      k = 18 ∧ ((classify w = some .C ∧ r = .D) ∨ (classify w = some .D ∧ r = .C)) := by
  obtain ⟨x, hx⟩ := Option.ne_none_iff_exists'.1 h
  have hmatch : matchesRole w x = true := matchesRole_iff.2 (classify_eq_some_iff.1 hx).2
  rw [hx, classify_eq_some_iff, ← matchesRole_iff, matchesRole_flipBit_iff hmatch, Option.some_inj,
    Option.some_inj]
  refine and_iff_right_of_imp ?_
  rintro ⟨-, ⟨-, rfl⟩ | ⟨-, rfl⟩⟩ <;> decide

theorem classify_ne_of_classify_flipBit {w : Row} {k : Fin 26} {r : Role}
    (h : classify (flipBit w k) = some r) : classify w ≠ some r := by
  intro hr
  have hw : classify w ≠ none := hr ▸ Option.some_ne_none r
  rcases (classify_flipBit_eq_some_iff hw).1 h with ⟨-, ⟨hC, rfl⟩ | ⟨hD, rfl⟩⟩
  · cases hr.symm.trans hC
  · cases hr.symm.trans hD

/-- Where `r` is the one role that two rows share, SYNC names `r`, whichever row comes first. -/
theorem syncResult_of_one_shared_role {w : Rows} {r : Role}
    (hall : ∀ i : Fin 4, classify w[i] ≠ none)
    (hshared : ¬ Function.Injective fun i : Fin 4 => classify w[i])
    (honly : ∀ j k : Fin 4, j ≠ k → classify w[j] = classify w[k] → classify w[k] = some r) :
    (syncResult w).status = statusDuplicateRole ∧ (syncResult w).errRole = roleCode r := by
  rcases group_cases w with ⟨i, hi, -⟩ | ⟨i, -, hdup, hfirst⟩ | hperm
  · exact absurd hi (hall i)
  · rw [syncResult_of_duplicate hall hdup hfirst]
    obtain ⟨j, hj, hji⟩ := hdup
    exact ⟨rfl, congrArg roleOutCode (honly j i hj.ne hji)⟩
  · exact absurd (exists_perm_iff_injective.1 hperm).2 hshared

section ReplacedRow

variable {w w' : Rows} {i : Fin 4}

theorem syncResult_of_replaced_by_unmatched (hok : (syncResult w).status = statusOk)
    (hrest : ∀ j : Fin 4, j ≠ i → w'[j] = w[j]) (hi : classify w'[i] = none) :
    (syncResult w').status = statusNoMatch ∧ (syncResult w').errRow = rowIndexCode i := by
  have hlt : ∀ j : Fin 4, j < i → classify w'[j] ≠ none := fun j hj => by
    rw [hrest j hj.ne]
    exact classify_ne_none_of_ok hok j
  rw [syncResult_of_unmatched hi hlt]
  exact ⟨rfl, rfl⟩

/-- In a group that synchronizes, a row of another role repeats the role of some other row. -/
theorem syncResult_of_replaced_by_other_role (hok : (syncResult w).status = statusOk)
    (hrest : ∀ j : Fin 4, j ≠ i → w'[j] = w[j]) {r : Role} (hi : classify w'[i] = some r)
    (hother : classify w[i] ≠ some r) :
    (syncResult w').status = statusDuplicateRole ∧ (syncResult w').errRole = roleCode r := by
  refine syncResult_of_one_shared_role (fun j => ?_) ?_ fun j k hjk he => ?_
  · rcases eq_or_ne j i with rfl | hj
    · rw [hi]
      exact Option.some_ne_none r
    · rw [hrest j hj]
      exact classify_ne_none_of_ok hok j
  · obtain ⟨k, rfl⟩ := ne_E_iff_exists_canonicalRole.1 (classify_eq_some_iff.1 hi).1
    obtain ⟨j, hj⟩ := exists_perm_iff_every_role.1 (syncResult_status_eq_ok_iff.1 hok) k
    have hji : j ≠ i := by
      rintro rfl
      exact hother hj
    have hshare : classify w'[j] = classify w'[i] := by rw [hrest j hji, hj, hi]
    exact fun hinj => hji (hinj hshare)
  · rcases eq_or_ne k i with rfl | hk
    · exact hi
    · rcases eq_or_ne j i with rfl | hj
      · rw [← he, hi]
      · rw [hrest j hj, hrest k hk] at he
        exact absurd (classify_injective_of_ok hok he) hjk

end ReplacedRow

/-- Settles O38: the flipped row matches no role, or the other one of C and D, which a row of the
group has. -/
theorem syncRejectsSingleBitError : Obligations.SyncRejectsSingleBitError := by
  refine ⟨fun d r r' hr => ?_, ?_⟩
  · rw [classify_mkRow_checkword d hr, Option.some_inj, eq_comm]
  intro role role' s s' t t' i k ht hok hflip hrest ht'
  rw [res_of_exec_sync ht] at hok
  rw [res_of_exec_sync ht', ← Bool.not_eq_true, syncResult_matched_iff]
  generalize s.inputs.rowIn = w, s'.inputs.rowIn = w' at hok hflip hrest ⊢
  have hclass : ∀ r, classify w'[i] = some r ↔
      k = 18 ∧ ((classify w[i] = some .C ∧ r = .D) ∨ (classify w[i] = some .D ∧ r = .C)) :=
    fun r => hflip ▸ classify_flipBit_eq_some_iff (classify_ne_none_of_ok hok i)
  have hrole : ∀ r, classify w'[i] = some r →
      (syncResult w').status = statusDuplicateRole ∧ (syncResult w').errRole = roleCode r :=
    fun r hr => syncResult_of_replaced_by_other_role hok hrest hr
      (classify_ne_of_classify_flipBit (hflip ▸ hr))
  have hnone : classify w'[i] = none →
      (syncResult w').status = statusNoMatch ∧ (syncResult w').errRow = rowIndexCode i :=
    syncResult_of_replaced_by_unmatched hok hrest
  have hfail : (syncResult w').status ≠ statusOk := by
    cases hi : classify w'[i] with
    | none =>
      rw [(hnone hi).1]
      decide
    | some r =>
      rw [(hrole r hi).1]
      decide
  refine ⟨fun hk hC => hrole .D ((hclass .D).2 ⟨hk, .inl ⟨hC, rfl⟩⟩),
    fun hk hD => hrole .C ((hclass .C).2 ⟨hk, .inr ⟨hD, rfl⟩⟩), fun hno => hnone ?_, hfail, hfail⟩
  refine Option.eq_none_iff_forall_ne_some.2 fun r hr => hno ?_
  obtain ⟨hk, hCD⟩ := (hclass r).1 hr
  exact ⟨hk, hCD.imp And.left And.left⟩

end Sys2Proof.Machine

/-! The statements of the exceptions chapter (R75 to R79, R91): which request reports which status,
the record of an illegal command word, and what requests and idle edges leave unchanged. -/

namespace Sys2Proof.Machine

/-- The record after an instruction is its `requestResult`. -/
theorem res_of_exec {i : Instr} {s t : State} (h : exec i s = .next t) :
    t.res = requestResult i s.inputs.rowIn := by
  rw [exec_eq_next_iff.1 h, State.afterEdge_res]

/-- `STATUS` after CLS goes by whether the row has a role (R67). -/
theorem clsResult_status (w : Row) :
    (clsResult w).status = if classify w = none then statusNoMatch else statusOk := by
  cases h : classify w with
  | none => rw [clsResult_of_classify_none h, if_pos rfl]
  | some r =>
    rw [clsResult_of_classify_some h, if_neg (Option.some_ne_none r)]
    rfl

/-- Settles O18: each kind's record shows its status, and the clauses on CLS and SYNC are the
branches of `clsResult_status` and `syncResult_status`. -/
theorem statusReportedByEachRequest : Obligations.StatusReportedByEachRequest := by
  refine fun s t => ⟨fun r h => ?gen, fun r h => ?chk, fun i hi h => ?illegal,
    fun role h => ?cls, fun role h => ?sync⟩
  case gen =>
    rw [res_of_exec h, requestResult_genOf]
    rfl
  case chk =>
    rw [res_of_exec h, requestResult_chkOf]
    rfl
  case illegal =>
    rw [res_of_exec h, requestResult_of_mem_illegalInstrs hi]
    rfl
  case cls =>
    rw [res_of_exec h, requestResult_cls, clsResult_status]
    exact ⟨fun hrole => if_neg hrole, fun hnone => if_pos hnone⟩
  case sync =>
    rw [res_of_exec_sync h, syncResult_status]
    refine ⟨fun hnone => if_pos hnone, fun hall hshared => ?_, fun hall hdiff => ?_⟩
    · have hninj : ¬ Function.Injective fun i : Fin 4 => classify s.inputs.rowIn[i] := by
        obtain ⟨i, j, hij, he⟩ := hshared
        exact fun hinj => hij.ne (hinj he)
      rw [if_neg (not_exists.2 hall), if_neg hninj]
      rfl
    · rw [if_neg (not_exists.2 hall), if_pos (.of_lt_imp_ne hdiff)]
      rfl

/-- Settles O5: an idle edge is `idleEdge`. -/
theorem idleEdgeHoldsResult : Obligations.IdleEdgeHoldsResult :=
  fun _ hidle => (step_of_idle hidle).trans (idleEdge_eq_next_iff.2 rfl)

/-- Settles O9: every instruction completes through `State.afterEdge`. -/
theorem requestWritesOnlyResAndValid : Obligations.RequestWritesOnlyResAndValid :=
  fun _ s => ⟨_, exec_eq_next_iff.2 rfl, s.afterEdge_rspValid _ _, s.afterEdge_upcoming _ _,
    s.afterEdge_edgeNo _ _⟩

/-- Settles O16: the record of an illegal word is `Res0` under `ILLEGAL_ROLE`. -/
theorem illegalWordReportsIllegalRole : Obligations.IllegalWordReportsIllegalRole := by
  intro i s hi
  rw [exec_eq_next_iff, requestResult_of_mem_illegalInstrs hi]
  rfl

end Sys2Proof.Machine

/-! The statements of the reset and hazards chapter (R92 to R97, R103): runs of any length, what
resets and idle edges depend on, and how long a result is held. -/

namespace Sys2Proof.Machine

/-! ### The output registers after an edge of each kind -/

theorem outputs_of_step {s t : State} (h : step s = .next t) :
    t.outputs = edgeOutputs s.outputs s.inputs := by
  rw [step_eq_next_iff.1 h]
  rfl

theorem edgeOutputs_of_rst {e : Inputs} (h : e.rst = true) (p : Bool × Result) :
    edgeOutputs p e = (false, Result.resetValues) := by
  simp [edgeOutputs, edgeValid, edgeResult, h]

theorem edgeOutputs_of_idle {e : Inputs} (h : e.Idle) (p : Bool × Result) :
    edgeOutputs p e = (false, p.2) := by
  obtain ⟨hrst, hreq⟩ := h
  simp [edgeOutputs, edgeValid, edgeResult, hrst, hreq]

/-- Settles O6: a reset edge leaves constants in the output registers, and an idle edge leaves a
function of `Res` alone. -/
theorem resetAndIdleIgnoreOtherInputs : Obligations.ResetAndIdleIgnoreOtherInputs := by
  intro s s' t t' ht ht'
  have houtputs : t.outputs = t'.outputs → t.res = t'.res ∧ t.rspValid = t'.rspValid :=
    fun h => (Prod.mk.inj h).symm
  rw [outputs_of_step ht, outputs_of_step ht'] at houtputs
  refine ⟨fun hrst hrst' => houtputs ?_, fun hidle hidle' hres => houtputs ?_⟩
  · rw [edgeOutputs_of_rst hrst, edgeOutputs_of_rst hrst']
  · rw [edgeOutputs_of_idle hidle, edgeOutputs_of_idle hidle']
    exact congrArg (Prod.mk false) hres

/-- Settles O8, by induction on the number of edges, each of which answers a next state. -/
theorem runsNeverStop : Obligations.RunsNeverStop := by
  intro n
  induction n with
  | zero => exact fun s => ⟨s, rfl, rfl, rfl⟩
  | succ n ih =>
    intro s
    obtain ⟨t, hrun, hedge, hup⟩ :=
      ih (s.afterEdge (edgeValid s.inputs) (edgeResult s.inputs s.res))
    refine ⟨t, (run_succ n s).trans hrun, ?_, ?_⟩
    · rw [hedge, State.afterEdge_edgeNo]
      omega
    · rw [hup, State.afterEdge_upcoming, List.drop_tail]

/-! ### The first effective edge, and `STATUS` until the first request -/

/-- A reset edge or a request makes any state coherent (R94). -/
theorem State.coherent_of_effective_step {s t : State} (he : s.inputs.Effective)
    (ht : step s = .next t) : t.Coherent := by
  rcases s.inputs.edge_kind with hrst | hacc | ⟨hrst, hreq⟩
  · rw [step_of_rst hrst, resetEdge_eq_next_iff] at ht
    rw [ht]
    exact State.coherent_of_resetValues rfl rfl
  · rw [(step_eq_next_iff_of_accepted hacc).1 ht]
    exact State.coherent_of_fromRequest (requestResult_fromRequest _ _)
  · simp [Inputs.Effective, hrst, hreq] at he

/-- Settles O42: an effective edge overwrites `Res` and `RSP_VALID` with a record of reset or of a
request, whatever they held. -/
theorem firstEffectiveEdgeMakesCoherent : Obligations.FirstEffectiveEdgeMakesCoherent := by
  intro s t u e he ht hu
  have hsame : t.outputs = u.outputs := by
    rw [outputs_of_step ht, outputs_of_step hu]
    exact edgeOutputs_of_effective he _ _
  obtain ⟨hvalid, hres⟩ := Prod.mk.inj hsame
  have hcoherent : t.Coherent :=
    State.coherent_of_effective_step (s := { s with upcoming := e :: s.upcoming }) he ht
  exact ⟨hcoherent, hres, hvalid⟩

/-- An edge that accepts no request keeps the record of reset. -/
theorem edgeResult_resetValues_of_not_accepted {e : Inputs} (h : ¬ e.Accepted) :
    edgeResult e Result.resetValues = Result.resetValues := by
  rcases e.edge_kind with hrst | hacc | ⟨hrst, hreq⟩
  · simp [edgeResult, hrst]
  · exact absurd hacc h
  · simp [edgeResult, hrst, hreq]

theorem foldl_edgeOutputs_resetValues_of_not_accepted {es : List Inputs}
    (h : ∀ e ∈ es, ¬ e.Accepted)
    {p : Bool × Result} (hp : p.2 = Result.resetValues) :
    (es.foldl edgeOutputs p).2 = Result.resetValues := by
  induction es generalizing p with
  | nil => exact hp
  | cons e es ih =>
    obtain ⟨he, hes⟩ := List.forall_mem_cons.1 h
    refine ih hes ?_
    rw [edgeOutputs, hp]
    exact edgeResult_resetValues_of_not_accepted he

/-- No record of a request shows the status of reset (R95). -/
theorem Result.FromRequest.status_ne_statusNone {r : Result} (h : r.FromRequest) :
    r.status ≠ statusNone := by
  have hmem :
      r.status ∈ [statusOk, statusNoMatch, statusDuplicateRole, statusIllegalRole] := by
    rcases h with ⟨-, h⟩ | ⟨x, -, h⟩ | ⟨-, h⟩ | ⟨-, -, h⟩ | ⟨-, -, h⟩ | ⟨-, -, h⟩ | h <;>
      simp [congrArg Result.status h, Result.empty]
  intro hnone
  exact absurd (hnone ▸ hmem) (by decide)

/-- Settles O44: the edges before the first request keep the record of reset, and the records of
requests have other status codes. -/
theorem statusNoneUntilFirstRequest : Obligations.StatusNoneUntilFirstRequest := by
  refine ⟨fun es s t hres hes hrun => ?_, fun i s t ht => ?_⟩
  · have hkept : t.outputs.2 = Result.resetValues := by
      rw [outputs_of_run s.upcoming rfl hrun]
      exact foldl_edgeOutputs_resetValues_of_not_accepted hes hres
    exact congrArg Result.status hkept
  · rw [res_of_exec ht]
    exact (requestResult_fromRequest i _).status_ne_statusNone

/-! ### A result through idle edges -/

/-- Idle edges hold `Res`, and any of them clears `RSP_VALID` (R91, R97). -/
theorem foldl_edgeOutputs_of_idle {es : List Inputs} (h : ∀ e ∈ es, e.Idle) (p : Bool × Result) :
    es.foldl edgeOutputs p = (p.1 && es.isEmpty, p.2) := by
  induction es generalizing p with
  | nil => simp
  | cons e es ih =>
    obtain ⟨he, hes⟩ := List.forall_mem_cons.1 h
    rw [List.foldl_cons, edgeOutputs_of_idle he, ih hes]
    simp

/-- Settles O45: the run is the request's step followed by the idle edges. -/
theorem resultHeldThroughIdleEdges : Obligations.ResultHeldThroughIdleEdges := by
  intro e es s t u hacc hidle hu hrun
  have hvalid : u.rspValid = true := (rspValidMarksAcceptedRequest _ _ hu).2 hacc
  have ht : t.outputs = (u.rspValid && es.isEmpty, u.res) := by
    rw [outputs_of_run (es := e :: es) s.upcoming rfl hrun, List.foldl_cons,
      foldl_edgeOutputs_of_idle hidle]
    exact congrArg (fun p : Bool × Result => (p.1 && es.isEmpty, p.2)) (outputs_of_step hu).symm
  obtain ⟨htvalid, htres⟩ := Prod.mk.inj ht
  refine ⟨htres, ?_⟩
  rw [htvalid, hvalid, Bool.true_and, List.isEmpty_iff]

end Sys2Proof.Machine

/-! The host's reading of the result ports (93 U5, U6; log 6): the codes that the block may show are
the ones with a name, and every other code is a fault of the reader. -/

namespace Sys2Proof.Machine

/-- The status codes that may be shown are the five of R46's table. -/
theorem statusCodeShown_iff {c : StatusCode} :
    statusCodeShown c = true ↔ c = statusOk ∨ c = statusNoMatch ∨ c = statusDuplicateRole ∨
      c = statusIllegalRole ∨ c = statusNone := by
  revert c
  decide

theorem exists_statusName_of_shown {c : StatusCode} (h : statusCodeShown c = true) :
    ∃ n, statusName c = .ok n := by
  obtain rfl | rfl | rfl | rfl | rfl := statusCodeShown_iff.1 h
  · exact ⟨.ok, rfl⟩
  · exact ⟨.noMatch, rfl⟩
  · exact ⟨.duplicateRole, rfl⟩
  · exact ⟨.illegalRole, rfl⟩
  · exact ⟨.none, rfl⟩

theorem statusName_of_not_shown {c : StatusCode} (h : statusCodeShown c = false) :
    statusName c = .error (.reservedStatus c) := by
  have hno := mt statusCodeShown_iff.2 (Bool.eq_false_iff.1 h)
  simp only [not_or] at hno
  obtain ⟨hok, hnoMatch, hduplicate, hillegal, hnone⟩ := hno
  rw [statusName, if_neg hok, if_neg hnoMatch, if_neg hduplicate, if_neg hillegal, if_neg hnone]

/-- The role codes that may be shown are those of the five roles and `NONE` (R44). -/
theorem roleCodeShown_iff {c : RoleCode} :
    roleCodeShown c = true ↔ (∃ r, c = roleCode r) ∨ c = roleNone := by
  constructor
  · rw [roleCodeShown, Bool.or_eq_true, decide_eq_true_iff]
    exact Or.imp_left exists_roleCode_of_roleCodeLegal
  · rintro (⟨r, rfl⟩ | rfl)
    · exact roleCodeShown_roleCode r
    · exact roleCodeShown_roleNone

@[simp] theorem shownRole_roleCode (r : Role) : shownRole (roleCode r) = .ok (some r) := by
  simp [shownRole]

@[simp] theorem shownRole_roleNone : shownRole roleNone = .ok none := rfl

theorem exists_shownRole_of_shown {c : RoleCode} (h : roleCodeShown c = true) :
    ∃ r, shownRole c = .ok r := by
  obtain ⟨r, rfl⟩ | rfl := roleCodeShown_iff.1 h
  · exact ⟨some r, shownRole_roleCode r⟩
  · exact ⟨none, shownRole_roleNone⟩

theorem shownRole_of_not_shown {c : RoleCode} (h : roleCodeShown c = false) :
    shownRole c = .error (.reservedRole c) := by
  obtain ⟨hrole, hnone⟩ := not_or.1 (mt roleCodeShown_iff.2 (Bool.eq_false_iff.1 h))
  have hcode : roleOfCode? c = none :=
    Option.eq_none_iff_forall_ne_some.2 fun r hr => hrole ⟨r, roleOfCode?_eq_some_iff.1 hr⟩
  simp [shownRole, hcode, hnone]

/-- Settles O43: a coherent state shows codes that the block may show, the readers name each of
those, and they answer a fault at every other code. -/
theorem coherentResultIsReadable : Obligations.CoherentResultIsReadable := by
  refine ⟨fun s hs => ?_, fun _ => statusName_of_not_shown, fun _ => shownRole_of_not_shown⟩
  obtain ⟨⟨hstatus, hroleOut, herrRole, hrowRole⟩, -⟩ := hs
  exact ⟨exists_statusName_of_shown hstatus, exists_shownRole_of_shown hroleOut,
    exists_shownRole_of_shown herrRole, fun i => exists_shownRole_of_shown (hrowRole i)⟩

end Sys2Proof.Machine
